-- ==== Sys2Proof/Word.lean ====
section
/-! DEFINITION. The bit vectors of RBF and their plainest arithmetic (00_scope.md R9, R10, R13). -/

namespace Sys2Proof

/-- A command or response word, 32 bits (30_encoding.md R48). -/
abbrev Word := BitVec 32

/-- A pointer, capacity, count, offset or returned value: `W` = 24 bits (00_scope.md R9). -/
abbrev Idx := BitVec 24

/-- The data unit (00_scope.md R10). -/
abbrev Byte := BitVec 8

/-- `OP`, `RSVD` and `STATUS` fields are four bits wide (30_encoding.md R49, R51). -/
abbrev Nibble := BitVec 4

/-- The bits 31..28 of a word: `OP` of a command, `STATUS` of a response. -/
def Word.top (w : Word) : Nibble := w.extractLsb' 28 4

/-- The bits 27..24 of a word: `RSVD` of a command, always 0 in a response. -/
def Word.reserved (w : Word) : Nibble := w.extractLsb' 24 4

/-- The bits 23..0 of a word: `ARG` of a command, `VALUE` of a response. -/
def Word.low (w : Word) : Idx := w.extractLsb' 0 24

/-- The word with these three fields, high to low. -/
def Word.pack (top reserved : Nibble) (low : Idx) : Word := top ++ reserved ++ low

end Sys2Proof
end

