-- ==== Sys2Proof/Config.lean ====
section
/-! DEFINITION. What an implementation fixes (the parameters of 00_scope.md §4), and the values the spec leaves
unspecified, which no proof can see. -/

namespace Sys2Proof

/-- 00_scope.md R7. -/
inductive Variant where
  | sync
  | cdc
  deriving DecidableEq, Repr

/-- The parameters of a block, fixed while it runs (00_scope.md R7, R8, R12; 10_state.md R31). They stand in State,
which no step changes in this respect, so that a statement about every state is one about every parameter value. -/
structure Params where
  /-- `VARIANT`. -/
  variant    : Variant
  /-- `MEM_DEPTH`, the number of byte cells. -/
  memDepth   : Nat
  /-- `SYNC_STAGES`, on which no rule depends (R12, R92). -/
  syncStages : Nat
  /-- `MGMT_QUIET`, the length of the host duty of 45_cdc_variant.md R97. -/
  mgmtQuiet  : Nat
  deriving DecidableEq, Repr

/-- The parameters of the machine after reset. `SYNC` is the spec's default (R7).
DESIGN CHOICE (log 3, unsafe): the three OPEN parameters take the depth of the spec's own vectors and the least values. -/
def Params.standard : Params :=
  { variant := .sync, memDepth := 16, syncStages := 1, mgmtQuiet := 0 }

/-- The unspecified byte of the n-th out-of-range `PEEK` (42_consumer.md R71, 93_implementation_defined.md U1; log 5). -/
opaque Config.peekByte : Nat → Byte

/-- The unspecified byte of storage cell `a` that nothing has written since the reset numbered `era`
(10_state.md R32, U8; log 4). -/
opaque Config.powerOnByte : (era a : Nat) → Byte

end Sys2Proof
end

