-- ==== Sys2Proof/Syntax.lean ====
section
/-! DEFINITION. Ports, commands and their operands (30_encoding.md R49, R50, R53; pseudo-operations R60, R61). -/

namespace Sys2Proof

/-- The three command ports (10_state.md R18). -/
inductive Port where
  | M
  | P
  | Q
  deriving DecidableEq, Repr

/-- A command together with the port that performs it, one constructor per row of the opcode table. A command of one
port only does not repeat that port; `NOP`, `LEVEL` and `ROOM` name it. -/
inductive Instr where
  /-- `NOP` on any port (40_lifecycle.md R62). -/
  | nop (x : Port)
  /-- `ALLOC c` on port M (R63). -/
  | alloc (c : Idx)
  /-- `FREE` on port M (R64). -/
  | free
  /-- `LEVEL` on port P or Q (41_queries.md R66). -/
  | level (x : Port)
  /-- `ROOM` on port P or Q (R67). -/
  | room (x : Port)
  /-- `PEEK off` on port Q (42_consumer.md R71). -/
  | peek (off : Idx)
  /-- `CONSUME n` on port Q (R72). -/
  | consume (n : Idx)
  /-- `PUSH b` on port P (43_producer.md R74). -/
  | push (b : Byte)
  /-- The pseudo-operation `WRITE data` of the producer (30_encoding.md R60, R75): no word of its own, one `PUSH` a
  round. -/
  | write (data : List Byte)
  /-- The pseudo-operation `DRAIN` of the consumer (R61). -/
  | drain
  deriving DecidableEq, Repr

/-- The port that carries the command (R53). -/
def Instr.port : Instr → Port
  | .nop x => x
  | .alloc _ => .M
  | .free => .M
  | .level x => x
  | .room x => x
  | .peek _ => .Q
  | .consume _ => .Q
  | .push _ => .P
  | .write _ => .P
  | .drain => .Q

/-- The commands a pseudo-operation expands to, at most (R60, R61); a command of the block expands to itself. -/
def Instr.expand : Instr → List Instr
  | .nop x => [.nop x]
  | .alloc c => [.alloc c]
  | .free => [.free]
  | .level x => [.level x]
  | .room x => [.room x]
  | .peek off => [.peek off]
  | .consume n => [.consume n]
  | .push b => [.push b]
  | .write data => data.map .push
  | .drain => [.consume 0xFFFFFF#24]

/-- `WRITE` and `DRAIN` are the assembler's, not the block's (R60, R61). -/
def Instr.isPseudo : Instr → Bool
  | .nop _ => false
  | .alloc _ => false
  | .free => false
  | .level _ => false
  | .room _ => false
  | .peek _ => false
  | .consume _ => false
  | .push _ => false
  | .write _ => true
  | .drain => true

/-- `ALLOC` or `FREE`, whatever its outcome (44_cycle.md R80). -/
def Instr.isManagement : Instr → Bool
  | .nop _ => false
  | .alloc _ => true
  | .free => true
  | .level _ => false
  | .room _ => false
  | .peek _ => false
  | .consume _ => false
  | .push _ => false
  | .write _ => false
  | .drain => false

/-- The port carries `NOP` in this cycle: the command `NOP`, or a `WRITE` of no bytes, which issues no command (R60). -/
def Instr.isIdle : Instr → Bool
  | .nop _ => true
  | .alloc _ => false
  | .free => false
  | .level _ => false
  | .room _ => false
  | .peek _ => false
  | .consume _ => false
  | .push _ => false
  | .write data => data.isEmpty
  | .drain => false

/-- The spec's assembler text of a command, operands in decimal (30_encoding.md R59). -/
def Instr.asm : Instr → String
  | .nop _ => "NOP"
  | .alloc c => "ALLOC " ++ toString c.toNat
  | .free => "FREE"
  | .level _ => "LEVEL"
  | .room _ => "ROOM"
  | .peek off => "PEEK " ++ toString off.toNat
  | .consume n => "CONSUME " ++ toString n.toNat
  | .push b => "PUSH " ++ toString b.toNat
  | .write data => "WRITE [" ++ ", ".intercalate (data.map fun b => toString b.toNat) ++ "]"
  | .drain => "DRAIN"

end Sys2Proof
end

