-- ==== Sys2Proof/WellFormed.lean ====
section
/-! DEFINITION. Which commands a port may carry (30_encoding.md R53, R55), and which parameter values a block may have
(00_scope.md R8, R12). Every other bound is in the operand's type. -/

namespace Sys2Proof

/-- Port M carries neither `LEVEL` nor `ROOM` (R53). -/
def Instr.wellFormed : Instr → Bool
  | .nop _ => true
  | .alloc _ => true
  | .free => true
  | .level x => x != .M
  | .room x => x != .M
  | .peek _ => true
  | .consume _ => true
  | .push _ => true
  | .write _ => true
  | .drain => true

/-- 1 ≤ `MEM_DEPTH` ≤ 2^24 − 1 (R8) and `SYNC_STAGES` ≥ 1 (R12). -/
def Params.wellFormed (p : Params) : Bool :=
  decide (1 ≤ p.memDepth) && decide (p.memDepth ≤ 0xFFFFFF) && decide (1 ≤ p.syncStages)

end Sys2Proof
end

