-- ==== Sys2Proof/Decode.lean ====
section
/-! DEFINITION. The decoder, total on every word and port (30_encoding.md R57), and the encoder (R49, R53, R60, R61). -/

namespace Sys2Proof

/-- Why a word is `ILLEGAL` on a port (60_exceptions.md R101). All four causes get the same answer. -/
inductive Illegal where
  /-- `RSVD` is not 0 (R54). -/
  | reservedField
  /-- `OP` is `0x8` to `0xF` (R56). -/
  | reservedOpcode
  /-- A must-be-zero bit of `ARG` is 1 (R54). -/
  | argumentNotZero
  /-- `OP` is not legal on this port (R55). -/
  | wrongPort
  deriving DecidableEq, Repr

/-- A command with no operand: all of `ARG` must be 0. -/
def noOperand (arg : Idx) (i : Instr) : Except Illegal Instr :=
  if arg = 0#24 then .ok i else .error .argumentNotZero

/-- A command that only some ports carry. -/
def onPorts (legal : Bool) (r : Except Illegal Instr) : Except Illegal Instr :=
  if legal then r else .error .wrongPort

/-- `ARG[7:0]`, where `ARG[23:8]` must be 0 (30_encoding.md R50). -/
def byteOperand (arg : Idx) : Except Illegal Byte :=
  if arg.extractLsb' 8 16 = 0#16 then .ok (arg.extractLsb' 0 8) else .error .argumentNotZero

/-- `Decode(port, w)` (R57). An error is the spec's `ILLEGAL`, with its cause. -/
def decode (x : Port) (w : Word) : Except Illegal Instr :=
  if w.reserved ≠ 0#4 then .error .reservedField
  else
    match w.top.toNat with
    | 0x0 => noOperand w.low (.nop x)
    | 0x1 => onPorts (x == .M) (.ok (.alloc w.low))
    | 0x2 => onPorts (x == .M) (noOperand w.low .free)
    | 0x3 => onPorts (x == .P || x == .Q) (noOperand w.low (.level x))
    | 0x4 => onPorts (x == .P || x == .Q) (noOperand w.low (.room x))
    | 0x5 => onPorts (x == .Q) (.ok (.peek w.low))
    | 0x6 => onPorts (x == .Q) (.ok (.consume w.low))
    | 0x7 => onPorts (x == .P) ((byteOperand w.low).map .push)
    | _ => .error .reservedOpcode

/-- `{OP, RSVD, ARG}` of a legal word: `RSVD` is 0 (R49, R54). -/
def commandWord (op : Nibble) (arg : Idx) : Word := Word.pack op 0#4 arg

/-- The words of a command (R53, R58). A `WRITE` has one `PUSH` word a byte (R75); `DRAIN` is `0x60FF_FFFF` (R61). -/
def encode : Instr → List Word
  | .nop _ => [commandWord 0x0#4 0#24]
  | .alloc c => [commandWord 0x1#4 c]
  | .free => [commandWord 0x2#4 0#24]
  | .level _ => [commandWord 0x3#4 0#24]
  | .room _ => [commandWord 0x4#4 0#24]
  | .peek off => [commandWord 0x5#4 off]
  | .consume n => [commandWord 0x6#4 n]
  | .push b => [commandWord 0x7#4 (b.zeroExtend 24)]
  | .write data => data.map fun b => commandWord 0x7#4 (b.zeroExtend 24)
  | .drain => [commandWord 0x6#4 0xFFFFFF#24]

/-- The first port, in the order M, P, Q, on which a word is a command. DESIGN CHOICE (log 15): the table's rows name
no port. A word that is a command of no port is presented on M. -/
def portOfWord (w : Word) : Port :=
  match decode .M w, decode .P w, decode .Q w with
  | .ok _, _, _ => .M
  | .error _, .ok _, _ => .P
  | .error _, .error _, .ok _ => .Q
  | .error _, .error _, .error _ => .M

/-- The word whose low `nbits` bits are `w`'s; every higher bit is 0. -/
def tableWord (nbits w : Nat) : Word := BitVec.ofNat 32 (w % 2 ^ nbits)

/-- What the decoder reads from a word of the opcode table, on the first port that carries it (log 15). -/
def decodeTableWord (nbits w : Nat) : Option Instr :=
  (decode (portOfWord (tableWord nbits w)) (tableWord nbits w)).toOption

end Sys2Proof
end

