-- ==== Sys2Proof/Machine/State.lean ====
section
/-! DEFINITION. The state of RBF, its agents' pending inputs, the reasons a step stops, and the state after reset
(10_state.md, 45_cdc_variant.md R89, 00_scope.md R16). -/

namespace Sys2Proof.Machine

/-- `STORAGE` (20_memory.md R34). `cells` lists byte cells by index, strictly rising. An unlisted cell below `zeroed`
holds the 0 that `ALLOC` filled it with; an unlisted cell at or above it has not been written since reset and holds an
unspecified byte (R32; log 4). No listed cell below `zeroed` holds 0. -/
structure Memory where
  cells  : List Host.Cell
  zeroed : Nat
  deriving DecidableEq, Repr

/-- Storage after reset: no cell written. -/
def Memory.blank : Memory := { cells := [], zeroed := 0 }

/-- The sticky model faults (00_scope.md R16), as a set: one bit for each fault of 60_exceptions.md R104. -/
structure ModelFaults where
  /-- A `PEEK` at or past the level has been performed (42_consumer.md R71). -/
  peekOutOfRange : Bool
  deriving DecidableEq, Repr

/-- No model fault recorded. -/
def ModelFaults.empty : ModelFaults := { peekOutOfRange := false }

/-- What the producer agent does next on port P (44_cycle.md R76): present a word, or begin a `WRITE` (30_encoding.md
R60). -/
inductive ProducerAct where
  | word (w : Word)
  | write (data : List Byte)
  deriving DecidableEq, Repr

/-- A `WRITE` in progress in the producer agent (R60; log 7). -/
structure Writer where
  /-- The bytes not yet issued. -/
  rest     : List Byte
  /-- `written`, the number of `PUSH` commands that returned `OK 1` so far. -/
  written  : Nat
  /-- A `PUSH` has been issued whose response the producer has not yet seen. -/
  awaiting : Bool
  deriving DecidableEq, Repr

/-- Which step is taken next. -/
inductive Move where
  /-- `SYNC`: one cycle of `clk` with this `rst` (44_cycle.md R82). -/
  | clk (rst : Bool)
  /-- `CDC`: `StepP`, one cycle of `clk_p` (45_cdc_variant.md R90). -/
  | clkP
  /-- `CDC`: `StepQ`, one cycle of `clk_q` (R90). -/
  | clkQ
  /-- `CDC`: `SyncT(t)` (R90). -/
  | syncT (t : Idx)
  /-- `CDC`: `SyncH(h)` (R90). -/
  | syncH (h : Idx)
  /-- `CDC`: `rst_p` and `rst_q` together (R98). -/
  | rstBoth
  /-- `CDC`: `rst_p` alone, which has no move in the model (R98). -/
  | rstP
  /-- `CDC`: `rst_q` alone, which has no move in the model (R98). -/
  | rstQ
  deriving DecidableEq, Repr

structure State where
  /-- `VARIANT`, `MEM_DEPTH`, `SYNC_STAGES`, `MGMT_QUIET`: no step changes them (10_state.md R31). -/
  cfg : Params
  /-- `ALLOCATED` (10_state.md R20). -/
  allocated : Bool
  /-- `CAP` (R21). -/
  cap : Idx
  /-- `HEAD` (R23). -/
  head : Idx
  /-- `TAIL` (R24). -/
  tail : Idx
  /-- `STORAGE` (R22). -/
  mem : Memory
  /-- `RSP_M` (44_cycle.md R84). -/
  rspM : Word
  /-- `RSP_P`. -/
  rspP : Word
  /-- `RSP_Q`. -/
  rspQ : Word
  /-- `TAIL_SEEN_P` (45_cdc_variant.md R89). -/
  tailSeenP : Idx
  /-- `HEAD_SEEN_Q` (R89). -/
  headSeenQ : Idx
  /-- The model fault set (00_scope.md R16). -/
  faults : ModelFaults
  /-- The model's own: how many out-of-range `PEEK` bytes have been drawn (log 5). -/
  draws : Nat
  /-- The model's own: how many reset steps have been taken (log 4). -/
  era : Nat
  /-- The words the manager will present on port M (log 1). -/
  manager : List Word
  /-- What the producer will do on port P (log 1). -/
  producer : List ProducerAct
  /-- The words the consumer will present on port Q (log 1). -/
  consumer : List Word
  /-- The steps to come (log 9). -/
  sched : List Move
  /-- The producer's `WRITE` in progress (log 7). -/
  writer : Option Writer
  /-- The result of the producer's last finished `WRITE` (R60). -/
  writeResult : Option Nat
  /-- `clk_q` cycles before port M may carry `ALLOC` or `FREE` (45_cdc_variant.md R97; log 11). -/
  mgmtHold : Nat
  /-- `clk_q` cycles in which port Q may present only `NOP` (R97; log 11). -/
  qHold : Nat
  deriving DecidableEq, Repr

/-- Reasons a step has no next state. All are safe: the model stops where a host has broken a duty or where no
reachable state is. -/
inductive Fault where
  /-- Raised by `PUSH`, `WRITE` and `PEEK` when the cell they reach is not one of the `MEM_DEPTH` cells (20_memory.md
  R34). No reachable state raises it (10_state.md R25). Safe. -/
  | noSuchCell
  /-- Raised by `SyncT` and `SyncH` for a value that `between` does not allow (45_cdc_variant.md R90): no move. Safe. -/
  | snapshotOffPath
  /-- Raised by a step of the other variant (44_cycle.md R82, 45_cdc_variant.md R90): no move. Safe. -/
  | stepOfOtherVariant
  /-- Raised by a reset of one clock domain alone (R98): no move. Safe. -/
  | oneDomainReset
  /-- Raised by `ALLOC` or `FREE` on port M, or a word other than `NOP` on port Q, inside the quiet cycles of R97: no
  move. Safe. -/
  | quietBroken
  deriving DecidableEq, Repr

/-- Reasons to have no meaning for an instruction. -/
inductive Refusal where
  /-- An instruction without a meaning; every instruction of this model has one, so nothing raises it. Safe. -/
  | notModelled (mnemonic : String)
  deriving DecidableEq, Repr

/-- The state after reset of a block with these parameters (10_state.md R32), before any agent has anything to present.
The model's own fields and the agents' start empty (DESIGN CHOICE, log 17). -/
def State.resetWith (p : Params) : State :=
  { cfg := p
    allocated := false
    cap := 0#24
    head := 0#24
    tail := 0#24
    mem := Memory.blank
    rspM := 0#32
    rspP := 0#32
    rspQ := 0#32
    tailSeenP := 0#24
    headSeenQ := 0#24
    faults := ModelFaults.empty
    draws := 0
    era := 0
    manager := []
    producer := []
    consumer := []
    sched := []
    writer := none
    writeResult := none
    mgmtHold := 0
    qHold := 0 }

/-- The machine right after reset, with the standard parameters (log 3). -/
def State.reset : State := State.resetWith Params.standard

end Sys2Proof.Machine
end

