-- ==== Sys2Proof/Machine/Operands.lean ====
section
/-! DEFINITION. What a command computes with: ring arithmetic (00_scope.md R14, R15), each port's view of the other
side's pointer, level and room (41_queries.md R65), and the ring path of 45_cdc_variant.md R90. -/

namespace Sys2Proof.Machine

/-- `lvl(h, t) = (h − t) mod CAP`, the mathematical residue (R14, R15). -/
def lvl (c h t : Nat) : Nat := (((h : Int) - (t : Int)) % (c : Int)).toNat

/-- `inc(p, n) = (p + n) mod CAP` (R15). -/
def inc (c p n : Nat) : Nat := (p + n) % c

/-- `between(a, x, b)` apart from its test of `ALLOCATED`: `x` lies on the ring path from `a` forward to `b`
(45_cdc_variant.md R90). -/
def onPath (c a x b : Nat) : Bool := decide (lvl c x a ≤ lvl c b a)

/-- `between(a, x, b)` (R90). The path is one of ring positions, so `x` is below `CAP` (R91; DEDUCED, log 20). -/
def State.between (s : State) (a x b : Idx) : Bool :=
  s.allocated && decide (x.toNat < s.cap.toNat) && onPath s.cap.toNat a.toNat x.toNat b.toNat

/-- `tailv_P`, port P's view of `TAIL` (R65). -/
def State.tailViewP (s : State) : Idx :=
  match s.cfg.variant with
  | .sync => s.tail
  | .cdc => s.tailSeenP

/-- `headv_Q`, port Q's view of `HEAD` (R65). -/
def State.headViewQ (s : State) : Idx :=
  match s.cfg.variant with
  | .sync => s.head
  | .cdc => s.headSeenQ

/-- `lvl(HEAD, TAIL)` of the registers themselves. -/
def State.trueLevel (s : State) : Nat := lvl s.cap.toNat s.head.toNat s.tail.toNat

/-- `level_P` (R65). -/
def State.levelP (s : State) : Nat := lvl s.cap.toNat s.head.toNat s.tailViewP.toNat

/-- `level_Q` (R65). -/
def State.levelQ (s : State) : Nat := lvl s.cap.toNat s.headViewQ.toNat s.tail.toNat

/-- `room_P = C − level_P − 1` (R65). -/
def State.roomP (s : State) : Nat := s.cap.toNat - s.levelP - 1

/-- `room_Q = C − level_Q − 1` (R65). -/
def State.roomQ (s : State) : Nat := s.cap.toNat - s.levelQ - 1

/-- A pointer register's new value. -/
def pointer (n : Nat) : Idx := BitVec.ofNat 24 n

/-- The storage cell at ring position `off` from `TAIL`: `inc(TAIL, off)` (42_consumer.md R71). -/
def State.cellAt (s : State) (off : Nat) : Nat := inc s.cap.toNat s.tail.toNat off

end Sys2Proof.Machine
end

