-- ==== Sys2Proof/Machine/Ops.lean ====
section
/-! DEFINITION. The named operations of the commands: the response, `raise` (which stands where another machine takes an
exception, 60_exceptions.md R100, R105), storage access, creating and releasing the buffer, the two pointer moves, and
the producer's `WRITE` bookkeeping. -/

namespace Sys2Proof.Machine

/-- What a step or a command answers. -/
abbrev Result := Host.Outcome State Fault Refusal

/-- Status codes (30_encoding.md R52). The reserved codes have no name, so none is ever returned. -/
inductive Status where
  | ok
  | illegal
  | notAllocated
  | oom
  | invalidCapacity
  | busy
  deriving DecidableEq, Repr

/-- The code of a status (R52). -/
def Status.code : Status → Nibble
  | .ok => 0x0#4
  | .illegal => 0x1#4
  | .notAllocated => 0x2#4
  | .oom => 0x3#4
  | .invalidCapacity => 0x4#4
  | .busy => 0x5#4

/-- The response word `{S, 0b0000, v[23:0]}` (R51). -/
def response (st : Status) (v : Nat) : Word := Word.pack st.code 0#4 (BitVec.ofNat 24 v)

/-- The response register of a port (10_state.md R20). -/
def State.rsp (s : State) : Port → Word
  | .M => s.rspM
  | .P => s.rspP
  | .Q => s.rspQ

/-- `respond(S, v)` on a port: the response goes to the port's response register (00_scope.md R16, 44_cycle.md R84). -/
def State.respond (s : State) (x : Port) (st : Status) (v : Nat) : State :=
  match x with
  | .M => { s with rspM := response st v }
  | .P => { s with rspP := response st v }
  | .Q => { s with rspQ := response st v }

/-- `respond(S, v)` as the end of a command. -/
def answer (x : Port) (st : Status) (v : Nat) (s : State) : Result := .next (s.respond x st v)

/-- `raise S`: `respond(S, 0)` and no other effect (00_scope.md R16). -/
def raise (x : Port) (st : Status) (s : State) : Result := answer x st 0 s

/-- A command that needs a buffer raises `NOT_ALLOCATED` without one (60_exceptions.md R101). -/
def whenAllocated (x : Port) (s : State) (run : Result) : Result :=
  if s.allocated then run else raise x .notAllocated s

/-- An access to a storage cell, which must be one of the `MEM_DEPTH` cells (20_memory.md R34). -/
def withCell (s : State) (a : Nat) (run : Result) : Result :=
  if a < s.cfg.memDepth then run else .fault .noSuchCell

/-- Go on with the next state, or stop. -/
def andThen (r : Result) (run : State → Result) : Result :=
  match r with
  | .next s => run s
  | .fault f => .fault f
  | .refused f => .refused f

/-- The byte listed for a cell. -/
def lookupCell (a : Nat) : List Host.Cell → Option Byte
  | [] => none
  | (b, v) :: rest => if b = a then some v else lookupCell a rest

/-- List `v` for cell `a`, keeping the order. -/
def insertCell (a : Nat) (v : Byte) : List Host.Cell → List Host.Cell
  | [] => [(a, v)]
  | (b, w) :: rest =>
    if a < b then (a, v) :: (b, w) :: rest
    else if a = b then (a, v) :: rest
    else (b, w) :: insertCell a v rest

/-- Addresses strictly rising from a bound. -/
def cellsRise (least : Nat) : List Host.Cell → Bool
  | [] => true
  | (a, _) :: rest => decide (least ≤ a) && cellsRise (a + 1) rest

/-- What an unlisted cell reads as: the 0 of `ALLOC`'s fill below `zeroed` (40_lifecycle.md R63), no value written since
reset above it (10_state.md R32). -/
def Memory.unlisted (m : Memory) (a : Nat) : Option Byte := if a < m.zeroed then some 0#8 else none

/-- The value last written to a cell since reset, if any. -/
def Memory.get (m : Memory) (a : Nat) : Option Byte :=
  match lookupCell a m.cells with
  | some v => some v
  | none => m.unlisted a

/-- The canonical form: addresses strictly rising, and no listed byte equal to what the unlisted cell would read as. -/
def Memory.wf (m : Memory) : Bool :=
  cellsRise 0 m.cells && m.cells.all fun e => decide (m.unlisted e.1 ≠ some e.2)

/-- `MemWrite(a, 1, v)` (00_scope.md R16). -/
def Memory.write (m : Memory) (a : Nat) (v : Byte) : Memory :=
  if m.unlisted a = some v then { m with cells := m.cells.filter fun e => decide (e.1 ≠ a) }
  else { m with cells := insertCell a v m.cells }

/-- `for i in 0 .. c-1: MemWrite(i, 1, 0x00)` (40_lifecycle.md R63). -/
def Memory.zeroFill (m : Memory) (c : Nat) : Memory :=
  { cells := m.cells.filter fun e => decide (c ≤ e.1), zeroed := max m.zeroed c }

/-- `MemRead(a, 1)` (00_scope.md R16). A cell not written since reset holds an unspecified byte (10_state.md R32;
log 4). -/
def State.memRead (s : State) (a : Nat) : Byte := (s.mem.get a).getD (Config.powerOnByte s.era a)

/-- The bytes in the queue, oldest first (10_state.md R27). -/
def State.content (s : State) : List Byte := (List.range s.trueLevel).map fun i => s.memRead (s.cellAt i)

/-- The snapshot registers when a buffer is created or released: 0 in `CDC`; `SYNC` has none (R63, R64; log 18). -/
def State.clearViews (s : State) : State :=
  match s.cfg.variant with
  | .sync => s
  | .cdc => { s with tailSeenP := 0#24, headSeenQ := 0#24 }

/-- The register and storage writes of a successful `ALLOC c` (R63). -/
def State.createBuffer (s : State) (c : Idx) : State :=
  { s.clearViews with
    mem := s.mem.zeroFill c.toNat
    cap := c
    head := 0#24
    tail := 0#24
    allocated := true }

/-- The register writes of a successful `FREE`, which writes no storage cell (R64, 90_conflicts.md C9). -/
def State.releaseBuffer (s : State) : State :=
  { s.clearViews with
    allocated := false
    cap := 0#24
    head := 0#24
    tail := 0#24 }

/-- Store one byte at `HEAD` and advance it (43_producer.md R74). -/
def State.append (s : State) (b : Byte) : State :=
  { s with
    mem := s.mem.write s.head.toNat b
    head := pointer (inc s.cap.toNat s.head.toNat 1) }

/-- Advance `TAIL` by `k` places (42_consumer.md R72). -/
def State.remove (s : State) (k : Nat) : State :=
  { s with tail := pointer (inc s.cap.toNat s.tail.toNat k) }

/-- Record `PeekOutOfRange` (60_exceptions.md R104) and take the next free byte (42_consumer.md R71; log 5). -/
def State.peekFault (s : State) : State :=
  { s with faults := { s.faults with peekOutOfRange := true }, draws := s.draws + 1 }

/-- `PUSH b` on port P (43_producer.md R74). -/
def pushByte (b : Byte) (s : State) : Result :=
  whenAllocated .P s
    (if s.roomP = 0 then answer .P .ok 0 s
     else withCell s s.head.toNat (answer .P .ok 1 (s.append b)))

/-- `CONSUME n` on port Q (42_consumer.md R72). -/
def consumeBytes (n : Nat) (s : State) : Result :=
  whenAllocated .Q s (answer .Q .ok (min n s.levelQ) (s.remove (min n s.levelQ)))

/-- The producer agent issues the next byte of a `WRITE` and remembers the rest; with no bytes the `WRITE` is finished
and has the count so far as its result (30_encoding.md R60; log 7). -/
def State.issueWrite (s : State) (data : List Byte) : State :=
  let written := (s.writer.map Writer.written).getD 0
  match data with
  | [] => { s with writer := none, writeResult := some written }
  | _ :: rest => { s with writer := some { rest := rest, written := written, awaiting := true } }

/-- What the port's agent does when it presents a command, apart from the block: only a `WRITE` keeps anything. -/
def State.issue (s : State) : Instr → State
  | .nop _ => s
  | .alloc _ => s
  | .free => s
  | .level _ => s
  | .room _ => s
  | .peek _ => s
  | .consume _ => s
  | .push _ => s
  | .write data => s.issueWrite data
  | .drain => s

/-- A response the `WRITE` loop goes on after: `OK` with a value other than 0 (R60). -/
def stored (r : Word) : Bool := r.top = 0#4 && r.low ≠ 0#24

/-- The producer takes the response of the last `PUSH` of its `WRITE`, in the cycle of port P after it (R60,
70_reset_and_hazards.md R115, R117): count it and go on, or stop. -/
def State.observeWrite (s : State) : State :=
  match s.writer with
  | none => s
  | some w =>
    if w.awaiting then
      if stored s.rspP then
        match w.rest with
        | [] => { s with writer := none, writeResult := some (w.written + 1) }
        | _ :: _ => { s with writer := some { rest := w.rest, written := w.written + 1, awaiting := false } }
      else { s with writer := none, writeResult := some w.written }
    else s

/-- The union of two model fault sets (44_cycle.md R82). -/
def ModelFaults.union (a b : ModelFaults) : ModelFaults :=
  { peekOutOfRange := a.peekOutOfRange || b.peekOutOfRange }

/-- Every register and all storage take their reset values (10_state.md R32, 70_reset_and_hazards.md R111). The model
fault set is kept (log 6); the agents' queues are not the block's. -/
def State.resetRegisters (s : State) : State :=
  { s with
    allocated := false
    cap := 0#24
    head := 0#24
    tail := 0#24
    mem := Memory.blank
    era := s.era + 1
    rspM := 0#32
    rspP := 0#32
    rspQ := 0#32
    tailSeenP := 0#24
    headSeenQ := 0#24
    mgmtHold := 0
    qHold := 0 }

end Sys2Proof.Machine
end

