-- ==== Sys2Proof/Machine/Consumer.lean ====
section
/-! DEFINITION. `PEEK`, `CONSUME` and `DRAIN` (42_consumer.md, 30_encoding.md R61). -/

namespace Sys2Proof.Machine

/-- `PEEK off` (R71). Out of range the byte is free and the model fault is recorded. -/
def execPeek (off : Idx) (s : State) : Result :=
  whenAllocated .Q s
    (if off.toNat < s.levelQ then
       withCell s (s.cellAt off.toNat) (answer .Q .ok (s.memRead (s.cellAt off.toNat)).toNat s)
     else answer .Q .ok (Config.peekByte s.draws).toNat s.peekFault)

/-- `CONSUME n` (R72). -/
def execConsume (n : Idx) (s : State) : Result := consumeBytes n.toNat s

/-- `DRAIN`, which is `CONSUME 0xFFFFFF` (R61). -/
def execDrain (s : State) : Result := consumeBytes 0xFFFFFF s

end Sys2Proof.Machine
end

