-- ==== Sys2Proof/Machine/Lifecycle.lean ====
section
/-! DEFINITION. `NOP`, `ALLOC` and `FREE` (40_lifecycle.md). -/

namespace Sys2Proof.Machine

/-- `NOP` (R62). -/
def execNop (x : Port) (s : State) : Result := answer x .ok 0 s

/-- `ALLOC c` (R63), its checks in the order of 60_exceptions.md R103. -/
def execAlloc (c : Idx) (s : State) : Result :=
  if c = 0#24 then raise .M .invalidCapacity s
  else if s.allocated then raise .M .oom s
  else if s.cfg.memDepth < c.toNat then raise .M .oom s
  else answer .M .ok 0 (s.createBuffer c)

/-- `FREE` (R64). -/
def execFree (s : State) : Result := whenAllocated .M s (answer .M .ok 0 s.releaseBuffer)

end Sys2Proof.Machine
end

