-- ==== Sys2Proof/Machine/Producer.lean ====
section
/-! DEFINITION. `PUSH` and the rounds of `WRITE` (43_producer.md, 30_encoding.md R60). -/

namespace Sys2Proof.Machine

/-- `PUSH b` (R74). -/
def execPush (b : Byte) (s : State) : Result := pushByte b s

/-- One round of `WRITE data` (R60, R75): the producer issues `PUSH data[0]` and keeps the rest, to go on with when it
has seen `OK 1` (`State.observeWrite`). A `WRITE` of no bytes issues no command, so port P carries `NOP`. -/
def execWrite (data : List Byte) (s : State) : Result :=
  match data with
  | [] => answer .P .ok 0 (s.issueWrite [])
  | b :: rest => pushByte b (s.issueWrite (b :: rest))

end Sys2Proof.Machine
end

