-- ==== Sys2Proof/Machine/Queries.lean ====
section
/-! DEFINITION. `LEVEL` and `ROOM` (41_queries.md). On port M neither is a command (30_encoding.md R55; log 14). -/

namespace Sys2Proof.Machine

/-- `LEVEL` on port P or Q (R66). -/
def execLevel (x : Port) (s : State) : Result :=
  match x with
  | .M => raise .M .illegal s
  | .P => whenAllocated .P s (answer .P .ok s.levelP s)
  | .Q => whenAllocated .Q s (answer .Q .ok s.levelQ s)

/-- `ROOM` on port P or Q (R67). -/
def execRoom (x : Port) (s : State) : Result :=
  match x with
  | .M => raise .M .illegal s
  | .P => whenAllocated .P s (answer .P .ok s.roomP s)
  | .Q => whenAllocated .Q s (answer .Q .ok s.roomQ s)

end Sys2Proof.Machine
end

