-- ==== Sys2Proof/Machine/Dispatch.lean ====
section
/-! DEFINITION. `Exec(s, X, d)` of 44_cycle.md R82: one arm per command. -/

namespace Sys2Proof.Machine

def exec (i : Instr) (s : State) : Host.Outcome State Fault Refusal :=
  match i with
  | .nop x => Sys2Proof.Machine.execNop x s
  | .alloc c => Sys2Proof.Machine.execAlloc c s
  | .free => Sys2Proof.Machine.execFree s
  | .level x => Sys2Proof.Machine.execLevel x s
  | .room x => Sys2Proof.Machine.execRoom x s
  | .peek off => Sys2Proof.Machine.execPeek off s
  | .consume n => Sys2Proof.Machine.execConsume n s
  | .push b => Sys2Proof.Machine.execPush b s
  | .write data => Sys2Proof.Machine.execWrite data s
  | .drain => Sys2Proof.Machine.execDrain s

end Sys2Proof.Machine
end

