-- ==== Sys2Proof/Machine/Flags.lean ====
section
/-! DEFINITION. The comparators and the outputs of the block (41_queries.md R68, 10_state.md R19): functions of the
registers, stored nowhere (R28). -/

namespace Sys2Proof.Machine

/-- `p_empty` (R68). -/
def State.pEmpty (s : State) : Bool := !s.allocated || decide (s.head.toNat = s.tailViewP.toNat)

/-- `p_full` (R68). -/
def State.pFull (s : State) : Bool :=
  !s.allocated || decide (inc s.cap.toNat s.head.toNat 1 = s.tailViewP.toNat)

/-- `q_empty` (R68). -/
def State.qEmpty (s : State) : Bool := !s.allocated || decide (s.headViewQ.toNat = s.tail.toNat)

/-- `q_full` (R68). -/
def State.qFull (s : State) : Bool :=
  !s.allocated || decide (inc s.cap.toNat s.headViewQ.toNat 1 = s.tail.toNat)

/-- The output signals of the block (10_state.md R19). -/
structure Outputs where
  mRsp      : Word
  pRsp      : Word
  qRsp      : Word
  allocated : Bool
  pFull     : Bool
  pEmpty    : Bool
  qFull     : Bool
  qEmpty    : Bool
  deriving DecidableEq, Repr

/-- What the agents see during the cycle that starts in this state (44_cycle.md R83, R84, R86). -/
def State.outputs (s : State) : Outputs :=
  { mRsp := s.rspM
    pRsp := s.rspP
    qRsp := s.rspQ
    allocated := s.allocated
    pFull := s.pFull
    pEmpty := s.pEmpty
    qFull := s.qFull
    qEmpty := s.qEmpty }

end Sys2Proof.Machine
end

