-- ==== Sys2Proof/Machine/Cycle.lean ====
section
/-! DEFINITION. What the agents present and how the commands of one step combine: the `SYNC` cycle (44_cycle.md R78 to
R84) and the steps of `CDC` (45_cdc_variant.md R90, R96 to R98). -/

namespace Sys2Proof.Machine

/-- The word of a port whose agent has nothing to present: `NOP` (44_cycle.md R78). -/
def idleWord : Word := 0x00000000#32

/-- What the manager presents: the next word of its queue. -/
def State.managerCommand (s : State) : Except Illegal Instr := decode .M (s.manager.headD idleWord)

/-- What the consumer presents. -/
def State.consumerCommand (s : State) : Except Illegal Instr := decode .Q (s.consumer.headD idleWord)

/-- What the producer presents: the next byte of the `WRITE` in progress, else the next act of its queue. -/
def State.producerCommand (s : State) : Except Illegal Instr :=
  match s.writer, s.producer with
  | some w, _ => .ok (.write w.rest)
  | none, [] => decode .P idleWord
  | none, .word w :: _ => decode .P w
  | none, .write data :: _ => .ok (.write data)

/-- The manager's queue after its word of this cycle. -/
def State.popManager (s : State) : State := { s with manager := s.manager.tail }

/-- The consumer's queue after its word of this cycle. -/
def State.popConsumer (s : State) : State := { s with consumer := s.consumer.tail }

/-- The producer's queue after its act of this cycle; a `WRITE` in progress takes nothing from it. -/
def State.popProducer (s : State) : State :=
  match s.writer with
  | some _ => s
  | none => { s with producer := s.producer.tail }

/-- What a port's agent keeps of the command it presented. -/
def State.issueCommand (s : State) : Except Illegal Instr → State
  | .ok i => s.issue i
  | .error _ => s

/-- The word on port M is `ALLOC` or `FREE` (44_cycle.md R80). -/
def isManagement : Except Illegal Instr → Bool
  | .ok i => i.isManagement
  | .error _ => false

/-- The port carries `NOP`. -/
def isIdle : Except Illegal Instr → Bool
  | .ok i => i.isIdle
  | .error _ => false

/-- One port of `Cycle` (R82): `ILLEGAL`, then `BUSY` for anything but `NOP` in a management cycle, then `Exec`. -/
def perform (mgmt : Bool) (x : Port) (d : Except Illegal Instr) (s : State) : Result :=
  match d with
  | .error _ => raise x .illegal s
  | .ok i => if mgmt && !i.isIdle then raise x .busy (s.issue i) else exec i s

/-- The registers after a cycle, from what each port's command made of the start state (R81, R82). `draws` and the
`WRITE` in progress belong to the one port that writes them. -/
def merge (mgmt : Bool) (s sM sP sQ : State) : State :=
  { (if mgmt then sM else { s with head := sP.head, mem := sP.mem, tail := sQ.tail }) with
    rspM := sM.rspM
    rspP := sP.rspP
    rspQ := sQ.rspQ
    faults := s.faults.union (sP.faults.union sQ.faults)
    draws := sQ.draws
    writer := sP.writer
    writeResult := sP.writeResult }

/-- The commands of one `SYNC` cycle, each reading the start state (R79, R82). -/
def combine (dm dp dq : Except Illegal Instr) (s : State) : Result :=
  andThen (perform false .M dm s) fun sM =>
  andThen (perform (isManagement dm) .P dp s) fun sP =>
  andThen (perform (isManagement dm) .Q dq s) fun sQ =>
  .next (merge (isManagement dm) s sM sP sQ)

/-- `Cycle(s, m, p, q, rst)` (R82). With `rst` = 1 the commands are not performed (70_reset_and_hazards.md R111); the
agents have presented them all the same (log 16). -/
def syncCycle (rst : Bool) (s : State) : Result :=
  let s0 := s.observeWrite
  let dm := s0.managerCommand
  let dp := s0.producerCommand
  let dq := s0.consumerCommand
  let s1 := s0.popProducer.popManager.popConsumer
  if rst then .next (s1.issueCommand dp).resetRegisters else combine dm dp dq s1

/-- An `ALLOC` or `FREE` of port M begins a quiet time of port Q (45_cdc_variant.md R97; log 11). -/
def State.startQuiet (s : State) (mgmt : Bool) : State :=
  { s with qHold := if mgmt then s.cfg.mgmtQuiet else s.qHold }

/-- One cycle of `clk_q` of the quiet times; a word other than `NOP` on port Q begins one of port M (R97; log 11). -/
def State.countQuiet (s : State) (idle : Bool) : State :=
  { s with
    qHold := s.qHold - 1
    mgmtHold := if idle then s.mgmtHold - 1 else s.cfg.mgmtQuiet }

/-- `StepP(s, m, p)` (45_cdc_variant.md R90): a cycle of ports M and P; port Q's registers are left alone except by
`ALLOC` and `FREE` (R96). -/
def stepP (s : State) : Result :=
  let s0 := s.observeWrite
  let dm := s0.managerCommand
  let dp := s0.producerCommand
  let s1 := s0.popProducer.popManager
  if isManagement dm && decide (0 < s1.mgmtHold) then .fault .quietBroken
  else
    andThen (perform false .M dm s1) fun sM =>
    andThen (perform (isManagement dm) .P dp s1) fun sP =>
    .next ((merge (isManagement dm) s1 sM sP s1).startQuiet (isManagement dm))

/-- `StepQ(s, q)` (R90). -/
def stepQ (s : State) : Result :=
  let dq := s.consumerCommand
  let s1 := s.popConsumer
  if !isIdle dq && decide (0 < s1.qHold) then .fault .quietBroken
  else
    andThen (perform false .Q dq s1) fun sQ =>
    .next ((merge false s1 s1 s1 sQ).countQuiet (isIdle dq))

/-- `SyncT(s, t')` (R90). -/
def syncTail (t : Idx) (s : State) : Result :=
  if s.between s.tailSeenP t s.tail then .next { s with tailSeenP := t } else .fault .snapshotOffPath

/-- `SyncH(s, h')` (R90). -/
def syncHead (h : Idx) (s : State) : Result :=
  if s.between s.headSeenQ h s.head then .next { s with headSeenQ := h } else .fault .snapshotOffPath

/-- The step taken when the schedule says nothing (log 9): in `SYNC` a cycle without reset; in `CDC` a snapshot that is
behind its pointer is brought up to it, which keeps the fairness of R92, else the domain with something to do moves. -/
def State.idleMove (s : State) : Move :=
  match s.cfg.variant with
  | .sync => .clk false
  | .cdc =>
    if s.allocated && decide (s.tailSeenP ≠ s.tail) then .syncT s.tail
    else if s.allocated && decide (s.headSeenQ ≠ s.head) then .syncH s.head
    else if s.consumer.isEmpty then .clkP
    else .clkQ

/-- The next step of the schedule. -/
def State.nextMove (s : State) : Move := s.sched.headD s.idleMove

/-- The schedule after this step. -/
def State.popMove (s : State) : State := { s with sched := s.sched.tail }

/-- One move of the schedule. The `CDC` reset is a cycle of port P too: the producer sees the last response before the
response register is cleared, and issues nothing (R98, 70_reset_and_hazards.md R115; log 16). A step the variant does
not have, and a reset of one domain alone, are no moves (log 10). -/
def runMove (m : Move) (s : State) : Result :=
  match s.cfg.variant, m with
  | .sync, .clk rst => syncCycle rst s
  | .sync, .clkP => .fault .stepOfOtherVariant
  | .sync, .clkQ => .fault .stepOfOtherVariant
  | .sync, .syncT _ => .fault .stepOfOtherVariant
  | .sync, .syncH _ => .fault .stepOfOtherVariant
  | .sync, .rstBoth => .fault .stepOfOtherVariant
  | .sync, .rstP => .fault .stepOfOtherVariant
  | .sync, .rstQ => .fault .stepOfOtherVariant
  | .cdc, .clk _ => .fault .stepOfOtherVariant
  | .cdc, .clkP => stepP s
  | .cdc, .clkQ => stepQ s
  | .cdc, .syncT t => syncTail t s
  | .cdc, .syncH h => syncHead h s
  | .cdc, .rstBoth => .next s.observeWrite.resetRegisters
  | .cdc, .rstP => .fault .oneDomainReset
  | .cdc, .rstQ => .fault .oneDomainReset

/-- Have a port present this word in the next step, and the other ports of that step `NOP` (log 2). A `WRITE` in
progress is dropped, and so is the rest of a quiet time (R97). -/
def State.present (s : State) (x : Port) (w : Word) : State :=
  match s.cfg.variant, x with
  | .sync, .M =>
    { s with
      sched := .clk false :: s.sched, manager := w :: s.manager, producer := .word idleWord :: s.producer
      consumer := idleWord :: s.consumer, writer := none }
  | .sync, .P =>
    { s with
      sched := .clk false :: s.sched, manager := idleWord :: s.manager, producer := .word w :: s.producer
      consumer := idleWord :: s.consumer, writer := none }
  | .sync, .Q =>
    { s with
      sched := .clk false :: s.sched, manager := idleWord :: s.manager, producer := .word idleWord :: s.producer
      consumer := w :: s.consumer, writer := none }
  | .cdc, .M =>
    { s with
      sched := .clkP :: s.sched, manager := w :: s.manager, producer := .word idleWord :: s.producer
      writer := none, mgmtHold := 0 }
  | .cdc, .P =>
    { s with
      sched := .clkP :: s.sched, manager := idleWord :: s.manager, producer := .word w :: s.producer
      writer := none }
  | .cdc, .Q =>
    { s with sched := .clkQ :: s.sched, consumer := w :: s.consumer, qHold := 0 }

end Sys2Proof.Machine
end

