-- ==== Sys2Proof/Machine/Step.lean ====
section
/-! DEFINITION. One step of RBF: the next move of the schedule (44_cycle.md R82, 45_cdc_variant.md R90, R98). -/

namespace Sys2Proof.Machine

def step (s : State) : Host.Outcome State Fault Refusal := runMove s.nextMove s.popMove

/-- The state whose next step performs this word of the opcode table, on the port of log 15. -/
def State.withFetchWord (s : State) (nbits w : Nat) : State :=
  s.present (portOfWord (tableWord nbits w)) (tableWord nbits w)

end Sys2Proof.Machine
end

