-- ==== Sys2Proof/Safety.lean ====
section
/-! DEFINITION. What claims are stated in: the invariants of the block (10_state.md R25, 45_cdc_variant.md R93,
30_encoding.md R51) and what counts as a run without model fault (44_cycle.md R86). -/

namespace Sys2Proof.Machine

/-- No model fault recorded: the premise of a claim about a run (00_scope.md R16, 44_cycle.md R86). -/
def State.noModelFault (s : State) : Prop := s.faults = ModelFaults.empty

/-- A response word as 30_encoding.md R51 and R52 allow: bits 27..24 are 0, the status is not a reserved one, and the
value is 0 unless the status is `OK`. -/
def legalResponse (w : Word) : Prop :=
  w.reserved = 0#4 ∧ w.top.toNat ≤ 5 ∧ (w.top ≠ 0#4 → w.low = 0#24)

/-- 10_state.md R25, first line. -/
def State.liveBounds (s : State) : Prop :=
  1 ≤ s.cap.toNat ∧ s.cap.toNat ≤ s.cfg.memDepth ∧ s.head.toNat < s.cap.toNat ∧ s.tail.toNat < s.cap.toNat

/-- 10_state.md R25, second line, and the snapshots of 45_cdc_variant.md R90. -/
def State.allZero (s : State) : Prop :=
  s.cap = 0#24 ∧ s.head = 0#24 ∧ s.tail = 0#24 ∧ s.tailSeenP = 0#24 ∧ s.headSeenQ = 0#24

/-- 45_cdc_variant.md R93: `between(t_s, t, h)` and `between(t, h_s, h)`, every pointer inside the ring. -/
def State.viewsOrdered (s : State) : Prop :=
  s.tailSeenP.toNat < s.cap.toNat ∧ s.headSeenQ.toNat < s.cap.toNat ∧
    onPath s.cap.toNat s.tailSeenP.toNat s.tail.toNat s.head.toNat = true ∧
    onPath s.cap.toNat s.tail.toNat s.headSeenQ.toNat s.head.toNat = true

/-- The invariant every step keeps. -/
structure State.Inv (s : State) : Prop where
  /-- The parameters are legal (00_scope.md R8, R12). -/
  params : s.cfg.wellFormed = true
  /-- Storage is in its canonical form. -/
  memory : s.mem.wf = true
  /-- Written cells exist (20_memory.md R34) and lie in the part some `ALLOC` has filled. -/
  extent : s.mem.zeroed ≤ s.cfg.memDepth ∧ ∀ e ∈ s.mem.cells, e.1 < s.mem.zeroed
  /-- R25 while allocated. -/
  live : s.allocated = true → s.liveBounds
  /-- R25 while not allocated. -/
  idle : s.allocated = false → s.allZero
  /-- The buffer window has been filled (40_lifecycle.md R63). -/
  filled : s.allocated = true → s.cap.toNat ≤ s.mem.zeroed
  /-- R93, in `CDC`. -/
  views : s.allocated = true → s.cfg.variant = .cdc → s.viewsOrdered
  /-- `SYNC` has no snapshots (45_cdc_variant.md R89; log 18). -/
  noViews : s.cfg.variant = .sync → s.tailSeenP = 0#24 ∧ s.headSeenQ = 0#24
  /-- R51, R52 on port M. -/
  rspM : legalResponse s.rspM
  /-- R51, R52 on port P. -/
  rspP : legalResponse s.rspP
  /-- R51, R52 on port Q. -/
  rspQ : legalResponse s.rspQ

/-- The level in the form of 00_scope.md R15's conditional: places from `t` forward to `h` on a ring of `c`. Statements
use it where the model computes the residue of R14. -/
def ringDistance (c h t : Nat) : Nat := if t ≤ h then h - t else h + c - t

/-- `level_P` in that form (41_queries.md R65). -/
def State.seenByP (s : State) : Nat :=
  ringDistance s.cap.toNat s.head.toNat (if s.cfg.variant = .sync then s.tail.toNat else s.tailSeenP.toNat)

/-- `level_Q` in that form (R65). -/
def State.seenByQ (s : State) : Nat :=
  ringDistance s.cap.toNat (if s.cfg.variant = .sync then s.head.toNat else s.headSeenQ.toNat) s.tail.toNat

/-- The next step is a `SYNC` cycle without reset in which the ports present these words (44_cycle.md R78). -/
structure State.Presents (s : State) (m p q : Word) : Prop where
  variant : s.cfg.variant = .sync
  move : s.nextMove = .clk false
  writer : s.writer = none
  manager : s.manager.headD 0#32 = m
  producer : s.producer.headD (.word 0#32) = .word p
  consumer : s.consumer.headD 0#32 = q

/-- The state with that cycle's inputs taken from the queues and the schedule. -/
def State.inputsTaken (s : State) : State :=
  { s with
    sched := s.sched.tail
    manager := s.manager.tail
    producer := s.producer.tail
    consumer := s.consumer.tail }

end Sys2Proof.Machine
end

