-- ==== Sys2Proof/Certificates/Slice0/Obligations.lean ====
section
/-! DEFINITION. The statements for the provers, each with the rule of spec/ it comes from. `Inv` is the invariant of
Sys2Proof/Safety.lean; where a statement assumes it, the statement could fail only in states no run reaches. -/

open Sys2Proof Sys2Proof.Machine

/-! ### Encoding -/

/-- Every well-formed command's words decode, on its port, to the commands it stands for: to itself, to one `PUSH` a byte
for `WRITE`, to `CONSUME 0xFFFFFF` for `DRAIN` (30_encoding.md R49, R53, R57, R60, R61). -/
def Obligations.DecodeOfEncode : Prop :=
  ∀ i : Instr, i.wellFormed = true → (encode i).map (decode i.port) = i.expand.map .ok

/-- A word a port accepts is the one word of the command it decodes to, which is well formed and of that port: no bit is
ignored (R54, R55). -/
def Obligations.DecodeAcceptsOnlyEncodings : Prop :=
  ∀ (x : Port) (w : Word) (i : Instr), decode x w = .ok i →
    i.wellFormed = true ∧ i.port = x ∧ i.isPseudo = false ∧ encode i = [w]

/-- The decoder of R57, with the fields of R49 as numbers. -/
def Obligations.DecodeTable : Prop :=
  ∀ (x : Port) (w : Word),
    (decode x w).toOption =
      let op := w.toNat / 2 ^ 28
      let rs := w.toNat / 2 ^ 24 % 2 ^ 4
      let arg := w.toNat % 2 ^ 24
      if rs ≠ 0 then none
      else if op = 0x0 then (if arg = 0 then some (.nop x) else none)
      else if op = 0x1 then (if x = .M then some (.alloc (BitVec.ofNat 24 arg)) else none)
      else if op = 0x2 then (if x = .M ∧ arg = 0 then some .free else none)
      else if op = 0x3 then (if (x = .P ∨ x = .Q) ∧ arg = 0 then some (.level x) else none)
      else if op = 0x4 then (if (x = .P ∨ x = .Q) ∧ arg = 0 then some (.room x) else none)
      else if op = 0x5 then (if x = .Q then some (.peek (BitVec.ofNat 24 arg)) else none)
      else if op = 0x6 then (if x = .Q then some (.consume (BitVec.ofNat 24 arg)) else none)
      else if op = 0x7 then
        (if x = .P ∧ arg / 2 ^ 8 = 0 then some (.push (BitVec.ofNat 8 (arg % 2 ^ 8))) else none)
      else none

/-- The words of the table of R58, read by the decoder on the ports it names, and the two illegal ones. -/
def Obligations.SpecEncodedWords : Prop :=
  (∀ x, decode x 0x00000000#32 = .ok (.nop x)) ∧
  decode .M 0x10000008#32 = .ok (.alloc 8#24) ∧
  decode .M 0x20000000#32 = .ok .free ∧
  decode .P 0x30000000#32 = .ok (.level .P) ∧ decode .Q 0x30000000#32 = .ok (.level .Q) ∧
  decode .P 0x40000000#32 = .ok (.room .P) ∧ decode .Q 0x40000000#32 = .ok (.room .Q) ∧
  decode .Q 0x50000006#32 = .ok (.peek 6#24) ∧
  decode .Q 0x60000003#32 = .ok (.consume 3#24) ∧
  decode .P 0x70000041#32 = .ok (.push 0x41#8) ∧
  decode .Q 0x60FFFFFF#32 = .ok (.consume 0xFFFFFF#24) ∧ encode .drain = [0x60FFFFFF#32] ∧
  (decode .P 0x70000100#32).toOption = none ∧
  (∀ x, (decode x 0x80000000#32).toOption = none)

/-- `respond(S, v)` makes `{S[3:0], 0b0000, v[23:0]}` (R51), with the status codes of R52. -/
def Obligations.ResponseWordFormat : Prop :=
  (∀ (st : Status) (v : Nat), (response st v).toNat = st.code.toNat * 2 ^ 28 + v % 2 ^ 24) ∧
  Status.code .ok = 0x0#4 ∧ Status.code .illegal = 0x1#4 ∧ Status.code .notAllocated = 0x2#4 ∧
  Status.code .oom = 0x3#4 ∧ Status.code .invalidCapacity = 0x4#4 ∧ Status.code .busy = 0x5#4

/-! ### Reset and the invariant -/

/-- The reset values and outputs of 10_state.md R32, for every choice of parameters. The rule gives storage no value. -/
def Obligations.ResetValues : Prop :=
  ∀ p : Params,
    let s := State.resetWith p
    s.cfg = p ∧ s.allocated = false ∧ s.cap = 0#24 ∧ s.head = 0#24 ∧ s.tail = 0#24 ∧
      s.tailSeenP = 0#24 ∧ s.headSeenQ = 0#24 ∧ s.noModelFault ∧
      s.outputs =
        { mRsp := 0x00000000#32, pRsp := 0x00000000#32, qRsp := 0x00000000#32, allocated := false
          pFull := true, pEmpty := true, qFull := true, qEmpty := true }

/-- The invariant holds after reset, for the standard parameters and for all legal ones. -/
def Obligations.ResetMeetsInvariant : Prop :=
  State.reset.Inv ∧ ∀ p : Params, p.wellFormed = true → (State.resetWith p).Inv

/-- Every step keeps the invariant: 10_state.md R25, 45_cdc_variant.md R93, canonical storage inside `MEM_DEPTH` cells,
legal response words. -/
def Obligations.StepKeepsInvariant : Prop := ∀ s t : State, s.Inv → step s = .next t → t.Inv

/-- A reset step, `rst` = 1 in `SYNC` or both resets in `CDC`, gives every register its reset value, performs no command
and leaves the parameters (70_reset_and_hazards.md R111, R113, 45_cdc_variant.md R98). That no storage cell has a written
value afterwards and that the model fault set is kept are the model's choices (log 4, log 6). -/
def Obligations.ResetStepClearsBlock : Prop :=
  ∀ s : State,
    (s.cfg.variant = .sync ∧ s.nextMove = .clk true) ∨ (s.cfg.variant = .cdc ∧ s.nextMove = .rstBoth) →
    ∃ t, step s = .next t ∧ t.cfg = s.cfg ∧ t.allocated = false ∧ t.cap = 0#24 ∧ t.head = 0#24 ∧
      t.tail = 0#24 ∧ t.tailSeenP = 0#24 ∧ t.headSeenQ = 0#24 ∧
      (∀ a, t.mem.get a = none) ∧ t.faults = s.faults ∧
      t.outputs =
        { mRsp := 0x00000000#32, pRsp := 0x00000000#32, qRsp := 0x00000000#32, allocated := false
          pFull := true, pEmpty := true, qFull := true, qEmpty := true }

/-! ### A step runs the decoded commands -/

/-- A `SYNC` cycle without management is `Exec` of the three decoded commands on the same start state: `HEAD` and storage
from port P's, `TAIL` from port Q's, each port's response from its own, every other field as before (44_cycle.md R79,
R82, R84). -/
def Obligations.StepRunsDecodedCommands : Prop :=
  ∀ (s : State) (wm wp wq : Word) (dm dp dq : Instr) (sM sP sQ : State),
    s.Presents wm wp wq → decode .M wm = .ok dm → decode .P wp = .ok dp → decode .Q wq = .ok dq →
    (∀ c, dm ≠ .alloc c) → dm ≠ .free →
    exec dm s.inputsTaken = .next sM → exec dp s.inputsTaken = .next sP →
    exec dq s.inputsTaken = .next sQ →
    step s = .next
      { s.inputsTaken with
        head := sP.head, mem := sP.mem, tail := sQ.tail
        rspM := sM.rspM, rspP := sP.rspP, rspQ := sQ.rspQ
        faults := { peekOutOfRange := s.faults.peekOutOfRange || sQ.faults.peekOutOfRange }
        draws := sQ.draws }

/-- In a cycle in which port M performs `ALLOC` or `FREE`, whatever its outcome, ports P and Q have no effect: `NOP` is
answered `OK 0`, an illegal word `ILLEGAL 0`, anything else `BUSY 0` (R80). -/
def Obligations.ManagementCycleIsExclusive : Prop :=
  ∀ (s : State) (wm wp wq : Word) (dm : Instr) (sM : State),
    s.Presents wm wp wq → decode .M wm = .ok dm → (dm = .free ∨ ∃ c, dm = .alloc c) →
    exec dm s.inputsTaken = .next sM →
    step s = .next
      { sM with
        rspP :=
          (match decode .P wp with
           | .error _ => 0x10000000#32
           | .ok i => if i = .nop .P then 0x00000000#32 else 0x50000000#32)
        rspQ :=
          (match decode .Q wq with
           | .error _ => 0x10000000#32
           | .ok i => if i = .nop .Q then 0x00000000#32 else 0x50000000#32) }

/-- In a `SYNC` cycle an illegal word is answered `ILLEGAL 0` in every state and otherwise acts as `NOP` in its place
would (30_encoding.md R55, R56, 60_exceptions.md R103). `CDC` is CdcIllegalWordActsAsNop. -/
def Obligations.IllegalWordActsAsNop : Prop :=
  ∀ (s t : State) (w : Word), s.cfg.variant = .sync → s.nextMove = .clk false →
    (∀ ws, (decode .M w).toOption = none → step { s with manager := w :: ws } = .next t →
      t.rspM = 0x10000000#32 ∧
        step { s with manager := 0x00000000#32 :: ws } = .next { t with rspM := 0x00000000#32 }) ∧
    (∀ ws, s.writer = none → (decode .P w).toOption = none →
      step { s with producer := .word w :: ws } = .next t →
      t.rspP = 0x10000000#32 ∧
        step { s with producer := .word 0x00000000#32 :: ws } = .next { t with rspP := 0x00000000#32 }) ∧
    (∀ ws, (decode .Q w).toOption = none → step { s with consumer := w :: ws } = .next t →
      t.rspQ = 0x10000000#32 ∧
        step { s with consumer := 0x00000000#32 :: ws } = .next { t with rspQ := 0x00000000#32 })

/-- In `CDC` an illegal word on port M or P in `StepP`, or on port Q in `StepQ`, is answered `ILLEGAL 0` and otherwise acts
as `NOP` in its place would (45_cdc_variant.md R90, 44_cycle.md R82, 60_exceptions.md R103). The countdowns are the
model's form of R97, in which an illegal word on port Q counts as a word other than `NOP` (log 11). -/
def Obligations.CdcIllegalWordActsAsNop : Prop :=
  ∀ (s : State) (w : Word), s.Inv → s.cfg.variant = .cdc →
    (∀ ws, s.nextMove = .clkP → (decode .M w).toOption = none →
      ∃ t, step { s with manager := w :: ws } = .next t ∧ t.rspM = 0x10000000#32 ∧
        step { s with manager := 0x00000000#32 :: ws } = .next { t with rspM := 0x00000000#32 }) ∧
    (∀ ws, s.nextMove = .clkP → s.writer = none → (decode .P w).toOption = none →
      s.mgmtHold = 0 ∨ (∀ i, decode .M (s.manager.headD 0#32) = .ok i → i ≠ .free ∧ ∀ c, i ≠ .alloc c) →
      ∃ t, step { s with producer := .word w :: ws } = .next t ∧ t.rspP = 0x10000000#32 ∧
        step { s with producer := .word 0x00000000#32 :: ws } = .next { t with rspP := 0x00000000#32 }) ∧
    (∀ ws, { s with consumer := w :: ws }.nextMove = .clkQ → (decode .Q w).toOption = none → s.qHold = 0 →
      ∃ t, step { s with consumer := w :: ws } = .next t ∧ t.rspQ = 0x10000000#32 ∧
        step { s with consumer := 0x00000000#32 :: ws } =
          .next { t with rspQ := 0x00000000#32, mgmtHold := s.mgmtHold - 1 })

/-- `StepP` in `CDC`: the decoded commands of ports M and P on the same start state, port Q's registers left alone; with
`ALLOC` or `FREE`, that command's state and `BUSY` on port P (45_cdc_variant.md R90, R96). The countdowns are the
model's form of R97 (log 11). -/
def Obligations.CdcProducerStepRunsDecoded : Prop :=
  ∀ (s : State) (wm wp : Word) (dm dp : Instr) (sM sP : State),
    s.cfg.variant = .cdc → s.nextMove = .clkP → s.writer = none →
    s.manager.headD 0#32 = wm → s.producer.headD (.word 0#32) = .word wp →
    decode .M wm = .ok dm → decode .P wp = .ok dp →
    let s0 : State :=
      { s with sched := s.sched.tail, manager := s.manager.tail, producer := s.producer.tail }
    exec dm s0 = .next sM → exec dp s0 = .next sP →
    ((∀ c, dm ≠ .alloc c) → dm ≠ .free →
      step s = .next { s0 with head := sP.head, mem := sP.mem, rspM := sM.rspM, rspP := sP.rspP }) ∧
    ((dm = .free ∨ ∃ c, dm = .alloc c) → s.mgmtHold = 0 →
      step s = .next
        { sM with
          rspP := if dp = .nop .P then 0x00000000#32 else 0x50000000#32
          qHold := s.cfg.mgmtQuiet })

/-- `StepQ` in `CDC`: the decoded command of port Q; `TAIL`, the response and the model faults from it, every register of
the P domain left alone (R90). The countdowns are the model's form of R97 (log 11). -/
def Obligations.CdcConsumerStepRunsDecoded : Prop :=
  ∀ (s : State) (w : Word) (d : Instr) (sQ : State),
    s.cfg.variant = .cdc → s.nextMove = .clkQ → s.consumer.headD 0#32 = w → decode .Q w = .ok d →
    (d = .nop .Q ∨ s.qHold = 0) →
    let s0 : State := { s with sched := s.sched.tail, consumer := s.consumer.tail }
    exec d s0 = .next sQ →
    step s = .next
      { s0 with
        tail := sQ.tail, rspQ := sQ.rspQ
        faults := { peekOutOfRange := s.faults.peekOutOfRange || sQ.faults.peekOutOfRange }
        draws := sQ.draws
        qHold := s.qHold - 1
        mgmtHold := if d = .nop .Q then s.mgmtHold - 1 else s.cfg.mgmtQuiet }

/-! ### What each command does, and what it leaves alone -/

/-- `NOP` on any port answers `OK 0` in every state and writes nothing else; it is the all-zero word, and `OP` 0 with
another argument is not `NOP` (40_lifecycle.md R62; that it is never `BUSY` is ManagementCycleIsExclusive). -/
def Obligations.NopAnswersOk : Prop :=
  (∀ x, encode (.nop x) = [0x00000000#32]) ∧
  (∀ (x : Port) (arg : Idx), arg ≠ 0#24 → (decode x (arg.zeroExtend 32)).toOption = none) ∧
  ∀ s : State,
    exec (.nop .M) s = .next { s with rspM := 0x00000000#32 } ∧
    exec (.nop .P) s = .next { s with rspP := 0x00000000#32 } ∧
    exec (.nop .Q) s = .next { s with rspQ := 0x00000000#32 }

/-- `ALLOC c` (R63): the refusals in their order, with no effect; else the buffer is created, the cells below `c` read 0
and every other cell as before, nothing but the named registers changes, and capacity 1 is a buffer on which every
`PUSH` returns 0. -/
def Obligations.AllocCreatesBuffer : Prop :=
  ∀ (c : Idx) (s : State),
    (encode (.alloc c)).map BitVec.toNat = [0x10000000 + c.toNat] ∧
    (c = 0#24 → exec (.alloc c) s = .next { s with rspM := 0x40000000#32 }) ∧
    (c ≠ 0#24 → (s.allocated = true ∨ s.cfg.memDepth < c.toNat) →
      exec (.alloc c) s = .next { s with rspM := 0x30000000#32 }) ∧
    (c ≠ 0#24 → s.allocated = false → c.toNat ≤ s.cfg.memDepth →
      ∃ t, exec (.alloc c) s = .next t ∧
        t.allocated = true ∧ t.cap = c ∧ t.head = 0#24 ∧ t.tail = 0#24 ∧ t.rspM = 0x00000000#32 ∧
        (s.cfg.variant = .cdc → t.tailSeenP = 0#24 ∧ t.headSeenQ = 0#24) ∧
        (s.cfg.variant = .sync → t.tailSeenP = s.tailSeenP ∧ t.headSeenQ = s.headSeenQ) ∧
        (∀ a, a < c.toNat → t.memRead a = 0#8) ∧
        (∀ a, c.toNat ≤ a → t.memRead a = s.memRead a) ∧
        (c = 1#24 → t.outputs.pEmpty = true ∧ t.outputs.pFull = true ∧
          ∀ b, exec (.push b) t = .next { t with rspP := 0x00000000#32 }) ∧
        { t with
          allocated := s.allocated, cap := s.cap, head := s.head, tail := s.tail, mem := s.mem
          rspM := s.rspM, tailSeenP := s.tailSeenP, headSeenQ := s.headSeenQ } = s)

/-- `FREE` (R64): `NOT_ALLOCATED` without a buffer; else the registers of the buffer go to 0, storage and everything
else stay. -/
def Obligations.FreeReleasesBuffer : Prop :=
  encode .free = [0x20000000#32] ∧
  ∀ s : State,
    (s.allocated = false → exec .free s = .next { s with rspM := 0x20000000#32 }) ∧
    (s.allocated = true →
      exec .free s = .next
        { s with
          allocated := false, cap := 0#24, head := 0#24, tail := 0#24, rspM := 0x00000000#32
          tailSeenP := if s.cfg.variant = .cdc then 0#24 else s.tailSeenP
          headSeenQ := if s.cfg.variant = .cdc then 0#24 else s.headSeenQ })

/-- `LEVEL` on each port answers the level that port sees, below the capacity, and writes nothing else; without a buffer
`NOT_ALLOCATED` (41_queries.md R66). -/
def Obligations.LevelAnswersPortLevel : Prop :=
  encode (.level .P) = [0x30000000#32] ∧ encode (.level .Q) = [0x30000000#32] ∧
  (decode .M 0x30000000#32).toOption = none ∧
  ∀ s : State,
    (s.allocated = false →
      exec (.level .P) s = .next { s with rspP := 0x20000000#32 } ∧
      exec (.level .Q) s = .next { s with rspQ := 0x20000000#32 }) ∧
    (s.Inv → s.allocated = true →
      exec (.level .P) s = .next { s with rspP := BitVec.ofNat 32 s.seenByP } ∧
      exec (.level .Q) s = .next { s with rspQ := BitVec.ofNat 32 s.seenByQ } ∧
      s.seenByP ≤ s.cap.toNat - 1 ∧ s.seenByQ ≤ s.cap.toNat - 1)

/-- `ROOM` on each port answers `C − level − 1` for the level that port sees, and writes nothing else; without a buffer
`NOT_ALLOCATED` (R67). -/
def Obligations.RoomAnswersPortRoom : Prop :=
  encode (.room .P) = [0x40000000#32] ∧ encode (.room .Q) = [0x40000000#32] ∧
  (decode .M 0x40000000#32).toOption = none ∧
  ∀ s : State,
    (s.allocated = false →
      exec (.room .P) s = .next { s with rspP := 0x20000000#32 } ∧
      exec (.room .Q) s = .next { s with rspQ := 0x20000000#32 }) ∧
    (s.Inv → s.allocated = true →
      ∃ rP rQ : Nat, s.seenByP + rP + 1 = s.cap.toNat ∧ s.seenByQ + rQ + 1 = s.cap.toNat ∧
        exec (.room .P) s = .next { s with rspP := BitVec.ofNat 32 rP } ∧
        exec (.room .Q) s = .next { s with rspQ := BitVec.ofNat 32 rQ })

/-- `PEEK off` (42_consumer.md R71): the byte in cell `(TAIL + off) mod C` below the level port Q sees; at or past it
some byte and the model fault; nothing else is written but the model's own count of free bytes (log 5). -/
def Obligations.PeekReadsRingPosition : Prop :=
  ∀ (off : Idx) (s : State),
    (encode (.peek off)).map BitVec.toNat = [0x50000000 + off.toNat] ∧
    (s.allocated = false → exec (.peek off) s = .next { s with rspQ := 0x20000000#32 }) ∧
    (s.Inv → s.allocated = true → off.toNat < s.seenByQ →
      exec (.peek off) s = .next
        { s with rspQ := (s.memRead ((s.tail.toNat + off.toNat) % s.cap.toNat)).zeroExtend 32 }) ∧
    (s.Inv → s.allocated = true → s.seenByQ ≤ off.toNat →
      ∃ b : Byte, exec (.peek off) s = .next
        { s with rspQ := b.zeroExtend 32, faults := { peekOutOfRange := true }, draws := s.draws + 1 })

/-- An in-range `PEEK` answers the byte at that position of the queue (10_state.md R27, R33). -/
def Obligations.PeekReturnsQueueByte : Prop :=
  ∀ (off : Idx) (s : State), s.Inv → s.allocated = true → off.toNat < s.seenByQ →
    ∃ b : Byte, s.content[off.toNat]? = some b ∧
      exec (.peek off) s = .next { s with rspQ := b.zeroExtend 32 }

/-- `CONSUME n` (R72): `TAIL` advances by `min(n, level_Q)` modulo the capacity, that count is answered, nothing else is
written. -/
def Obligations.ConsumeRemovesClamped : Prop :=
  ∀ (n : Idx) (s : State),
    (encode (.consume n)).map BitVec.toNat = [0x60000000 + n.toNat] ∧
    (s.allocated = false → exec (.consume n) s = .next { s with rspQ := 0x20000000#32 }) ∧
    (s.Inv → s.allocated = true →
      exec (.consume n) s = .next
        { s with
          tail := BitVec.ofNat 24 ((s.tail.toNat + min n.toNat s.seenByQ) % s.cap.toNat)
          rspQ := BitVec.ofNat 32 (min n.toNat s.seenByQ) })

/-- `DRAIN` is `CONSUME 0xFFFFFF` (30_encoding.md R61): it answers the level port Q sees and moves `TAIL` to port Q's
view of `HEAD`, so that the level is 0, and writes nothing else. -/
def Obligations.DrainEmptiesQueue : Prop :=
  encode .drain = [0x60FFFFFF#32] ∧ decode .Q 0x60FFFFFF#32 = .ok (.consume 0xFFFFFF#24) ∧
  ∀ s : State,
    exec .drain s = exec (.consume 0xFFFFFF#24) s ∧
    (s.Inv → s.allocated = true →
      exec .drain s = .next
        { s with
          tail := if s.cfg.variant = .sync then s.head else s.headSeenQ
          rspQ := BitVec.ofNat 32 s.seenByQ })

/-- `PUSH b` (43_producer.md R74): refused without effect when not allocated or when port P sees the buffer full; else the
byte is in cell `HEAD`, `HEAD` is one further modulo the capacity, every other cell and register is as before. -/
def Obligations.PushStoresAtHead : Prop :=
  ∀ (b : Byte) (s : State),
    (encode (.push b)).map BitVec.toNat = [0x70000000 + b.toNat] ∧
    (s.allocated = false → exec (.push b) s = .next { s with rspP := 0x20000000#32 }) ∧
    (s.Inv → s.allocated = true → s.seenByP = s.cap.toNat - 1 →
      exec (.push b) s = .next { s with rspP := 0x00000000#32 }) ∧
    (s.Inv → s.allocated = true → s.seenByP < s.cap.toNat - 1 →
      ∃ t, exec (.push b) s = .next t ∧ t.rspP = 0x00000001#32 ∧
        t.head.toNat = (s.head.toNat + 1) % s.cap.toNat ∧
        t.memRead s.head.toNat = b ∧ (∀ a, a ≠ s.head.toNat → t.memRead a = s.memRead a) ∧
        { t with head := s.head, mem := s.mem, rspP := s.rspP } = s)

/-- One round of `WRITE` (30_encoding.md R60): no bytes, no command; else `PUSH` of the first byte, the other bytes kept
by the producer with the count so far. How the loop goes on is WriteLoopFollowsResponses and WriteIssuesItsBytesAsPushes.
Its form as state of the producer is the model's (log 7). -/
def Obligations.WriteIssuesOneByteARound : Prop :=
  ∀ s : State,
    let n := (s.writer.map Writer.written).getD 0
    exec (.write []) s =
      .next { s with rspP := 0x00000000#32, writer := none, writeResult := some n } ∧
    ∀ (b : Byte) (rest : List Byte),
      encode (.write (b :: rest)) = encode (.push b) ++ encode (.write rest) ∧
      (s.Inv → ∃ t, exec (.push b) s = .next t ∧
        exec (.write (b :: rest)) s =
          .next { t with writer := some { rest := rest, written := n, awaiting := true } }) ∧
      (s.Inv → s.allocated = true → s.seenByP < s.cap.toNat - 1 →
        ∃ t, exec (.write (b :: rest)) s = .next t ∧ t.rspP = 0x00000001#32 ∧
          t.content = s.content ++ [b])

/-- An uninterrupted `WRITE` in `SYNC` stores the longest part of `data` that fits, in order after the bytes already
queued, and has that count as its result (43_producer.md R75). That it takes one cycle a byte is the model's choice
(log 7), and so is that cycles without reset follow when the schedule has ended (log 9). A `WRITE` that others interrupt
is WriteLoopFollowsResponses and WriteIssuesItsBytesAsPushes. -/
def Obligations.WriteRunStoresWhatFits : Prop :=
  ∀ (s : State) (data : List Byte), s.Inv → s.cfg.variant = .sync → s.allocated = true →
    s.sched = [] → s.manager = [] → s.consumer = [] → s.producer = [.write data] → s.writer = none →
    let room := s.cap.toNat - 1 - s.seenByP
    ∃ t : State, Sys2Proof.core.run (data.length + 1) s = .next t ∧
      t.writeResult = some (min data.length room) ∧ t.writer = none ∧
      t.content = s.content ++ data.take room

/-- A `WRITE` in progress, whatever the manager and the consumer do, in both variants (30_encoding.md R60, 43_producer.md
R75, 70_reset_and_hazards.md R117). In the next cycle of port P, a reset included, the producer sees the response of its
last `PUSH`: one that is not `OK`, or `OK 0`, ends the `WRITE` with the count so far, so that no later byte goes out; any
other is counted, and ends it after the last byte. Steps that are no cycle of port P leave the `WRITE` as it is, and so
does a `CDC` reset with no response to see. The loop as state of the producer is the model's form (log 7, log 16). -/
def Obligations.WriteLoopFollowsResponses : Prop :=
  ∀ (s : State) (w : Writer), s.writer = some w →
    (w.awaiting = true →
      ((s.cfg.variant = .sync ∧ ∃ rst, s.nextMove = .clk rst) ∨
        (s.cfg.variant = .cdc ∧ (s.nextMove = .clkP ∨ s.nextMove = .rstBoth))) →
      (s.rspP.top ≠ 0#4 ∨ s.rspP.low = 0#24 →
        step s = step { s with writer := none, writeResult := some w.written }) ∧
      (s.rspP.top = 0#4 → s.rspP.low ≠ 0#24 →
        (w.rest = [] → step s = step { s with writer := none, writeResult := some (w.written + 1) }) ∧
        (w.rest ≠ [] → step s = step { s with
          writer := some { rest := w.rest, written := w.written + 1, awaiting := false } }))) ∧
    (∀ t, s.cfg.variant = .cdc → step s = .next t → s.nextMove ≠ .clkP →
      (s.nextMove = .rstBoth → w.awaiting = false) →
      t.writer = s.writer ∧ t.writeResult = s.writeResult ∧ t.producer = s.producer)

/-- The bytes of a `WRITE` go out as `PUSH` words, in both variants and whatever the other ports carry: a cycle of port P
in which the producer begins a `WRITE`, or goes on with one whose last response it has counted, is the cycle in which it
presents the word of `PUSH` of the next byte, and the rest is kept for later; a `WRITE` of no bytes is `NOP` with result 0
(30_encoding.md R60, 43_producer.md R75). With StepRunsDecodedCommands, ManagementCycleIsExclusive and
CdcProducerStepRunsDecoded this gives the cycle. The loop as state of the producer is the model's form (log 7). -/
def Obligations.WriteIssuesItsBytesAsPushes : Prop :=
  ∀ (s : State),
    ((s.cfg.variant = .sync ∧ ∃ rst, s.nextMove = .clk rst) ∨ (s.cfg.variant = .cdc ∧ s.nextMove = .clkP)) →
    (∀ (b : Byte) (rest : List Byte) (n : Nat) (word : Word) (t : State), encode (.push b) = [word] →
      s.writer = some { rest := b :: rest, written := n, awaiting := false } →
      step { s with writer := none, producer := .word word :: s.producer } = .next t →
      step s = .next { t with writer := some { rest := rest, written := n, awaiting := true } }) ∧
    (∀ (b : Byte) (rest : List Byte) (acts : List ProducerAct) (word : Word) (t : State), encode (.push b) = [word] →
      s.writer = none → s.producer = .write (b :: rest) :: acts →
      step { s with producer := .word word :: acts } = .next t →
      step s = .next { t with writer := some { rest := rest, written := 0, awaiting := true } }) ∧
    (∀ (acts : List ProducerAct) (t : State), s.writer = none → s.producer = .write [] :: acts →
      step { s with producer := .word 0x00000000#32 :: acts } = .next t →
      step s = .next { t with writeResult := some 0 })

/-- A command whose answer is not `OK` changes nothing but its response, apart from what a `WRITE` keeps in its agent
(60_exceptions.md R100). -/
def Obligations.FailedCommandHasNoEffect : Prop :=
  ∀ (i : Instr) (s t : State), exec i s = .next t → (t.rsp i.port).top ≠ 0#4 →
    { t with
      rspM := if i.port = .M then s.rspM else t.rspM
      rspP := if i.port = .P then s.rspP else t.rspP
      rspQ := if i.port = .Q then s.rspQ else t.rspQ
      writer := if i.isPseudo = true then s.writer else t.writer
      writeResult := if i.isPseudo = true then s.writeResult else t.writeResult } = s

/-- Every command answers, on its own port only, a word whose bits 27..24 are 0, whose status is not reserved and whose
value is 0 unless the status is `OK` (30_encoding.md R51, R52). -/
def Obligations.CommandResponsesAreLegal : Prop :=
  ∀ (i : Instr) (s t : State), exec i s = .next t →
    legalResponse (t.rsp i.port) ∧ ∀ x, x ≠ i.port → t.rsp x = s.rsp x

/-! ### Completion -/

/-- Every command completes with a definite answer in every state of the invariant (44_cycle.md R87). -/
def Obligations.CommandsAlwaysComplete : Prop :=
  ∀ (i : Instr) (s : State), s.Inv → ∃ t, exec i s = .next t

/-- Every `SYNC` cycle has a next state, whatever the ports present (R87). -/
def Obligations.SyncCyclesAlwaysComplete : Prop :=
  ∀ (s : State) (rst : Bool), s.Inv → s.cfg.variant = .sync → s.nextMove = .clk rst →
    ∃ t, step s = .next t

/-- A step of a state of the invariant stops only for a move the spec does not admit: a step of the other variant, a
snapshot off its path, one reset alone, or a broken quiet time (`ALLOC` or `FREE` on port M, or a word other than `NOP` on
port Q, while its countdown runs); never at storage and never by a refusal (60_exceptions.md R104, 45_cdc_variant.md R90,
R97, R98). That a snapshot value at or past the capacity is off its path is DEDUCED from R91 (log 20). The named faults
and the countdowns are the model's form (log 10, log 11), in which an illegal word on port Q counts as a word other than
`NOP`. -/
def Obligations.StepStopsOnlyWithoutMove : Prop :=
  ∀ s : State, s.Inv →
    (∀ r, step s ≠ .refused r) ∧ step s ≠ .fault .noSuchCell ∧
    (step s = .fault .snapshotOffPath →
      s.cfg.variant = .cdc ∧
        ((∃ v, s.nextMove = .syncT v ∧ s.between s.tailSeenP v s.tail = false) ∨
          ∃ v, s.nextMove = .syncH v ∧ s.between s.headSeenQ v s.head = false)) ∧
    (step s = .fault .oneDomainReset →
      s.cfg.variant = .cdc ∧ (s.nextMove = .rstP ∨ s.nextMove = .rstQ)) ∧
    (step s = .fault .quietBroken →
      s.cfg.variant = .cdc ∧
        ((s.nextMove = .clkP ∧ 0 < s.mgmtHold ∧
            ∃ i, decode .M (s.manager.headD 0#32) = .ok i ∧ (i = .free ∨ ∃ c, i = .alloc c)) ∨
          (s.nextMove = .clkQ ∧ 0 < s.qHold ∧ decode .Q (s.consumer.headD 0#32) ≠ .ok (.nop .Q)))) ∧
    (step s = .fault .stepOfOtherVariant →
      (s.cfg.variant = .sync ↔ ¬ ∃ r, s.nextMove = .clk r))

/-! ### The queue -/

/-- No step but one that creates, releases or resets the buffer does anything to the queue but drop `k` bytes at its old
end, announced by `OK k` on port Q, and append at most one at its new end, announced by `OK 1` on port P
(10_state.md R27). -/
def Obligations.StepRefinesQueue : Prop :=
  ∀ s t : State, s.Inv → step s = .next t → s.allocated = true → t.allocated = true →
    ∃ (k : Nat) (new : List Byte), t.content = s.content.drop k ++ new ∧
      k ≤ s.content.length ∧ (k = 0 ∨ t.rspQ = BitVec.ofNat 32 k) ∧
      (new = [] ∨ ∃ b, new = [b] ∧ t.rspP = 0x00000001#32)

/-- `PUSH` and `CONSUME` in one `SYNC` cycle each use the other's old pointer: the byte is appended exactly if there was
room before the cycle, and what is removed was there before it (44_cycle.md R79, R85, 70_reset_and_hazards.md R120). -/
def Obligations.SameCyclePushAndConsume : Prop :=
  ∀ (s : State) (b : Byte) (n : Idx) (wp wq : Word), s.Inv → s.allocated = true →
    encode (.push b) = [wp] → encode (.consume n) = [wq] → s.Presents 0x00000000#32 wp wq →
    let level := ringDistance s.cap.toNat s.head.toNat s.tail.toNat
    ∃ t, step s = .next t ∧
      t.rspP = (if level < s.cap.toNat - 1 then 0x00000001#32 else 0x00000000#32) ∧
      t.rspQ = BitVec.ofNat 32 (min n.toNat level) ∧
      t.content =
        s.content.drop (min n.toNat level) ++ (if level < s.cap.toNat - 1 then [b] else [])

/-- The capacity does not change while a buffer is allocated, only `FREE` writes it then, and `ALLOC` is refused
(10_state.md R21). -/
def Obligations.CapacityIsImmutable : Prop :=
  (∀ s t : State, step s = .next t → s.allocated = true → t.allocated = true → t.cap = s.cap) ∧
  (∀ (i : Instr) (s t : State), exec i s = .next t → s.allocated = true → t.cap ≠ s.cap → i = .free) ∧
  ∀ (c : Idx) (s t : State), exec (.alloc c) s = .next t → s.allocated = true → { t with rspM := s.rspM } = s

/-- While a buffer is allocated `HEAD` changes only by a `PUSH` answered `OK 1` on port P, by one place (R23). -/
def Obligations.HeadMovesOnlyByPush : Prop :=
  (∀ s t : State, step s = .next t → s.allocated = true → t.allocated = true → t.head ≠ s.head →
    t.rspP = 0x00000001#32 ∧ t.head.toNat = (s.head.toNat + 1) % s.cap.toNat) ∧
  ∀ (i : Instr) (s t : State), exec i s = .next t → s.allocated = true → t.allocated = true →
    t.head ≠ s.head → ∃ b, i = .push b ∨ ∃ rest, i = .write (b :: rest)

/-- While a buffer is allocated `TAIL` changes only by a `CONSUME` answered `OK k` on port Q, by `k` places (R24). -/
def Obligations.TailMovesOnlyByConsume : Prop :=
  (∀ s t : State, s.Inv → step s = .next t → s.allocated = true → t.allocated = true →
    t.tail ≠ s.tail →
    ∃ k, k ≤ s.seenByQ ∧ t.rspQ = BitVec.ofNat 32 k ∧
      t.tail.toNat = (s.tail.toNat + k) % s.cap.toNat) ∧
  ∀ (i : Instr) (s t : State), exec i s = .next t → s.allocated = true → t.allocated = true →
    t.tail ≠ s.tail → i = .drain ∨ ∃ n, i = .consume n

/-- No step changes a parameter of the block (10_state.md R31). -/
def Obligations.ParametersNeverChange : Prop := ∀ s t : State, step s = .next t → t.cfg = s.cfg

/-- No step clears a model fault (60_exceptions.md R104), a reset included (log 6), and only a `PEEK` records one. -/
def Obligations.ModelFaultsAreSticky : Prop :=
  (∀ s t : State, step s = .next t → s.faults.peekOutOfRange = true → t.faults.peekOutOfRange = true) ∧
  ∀ (i : Instr) (s t : State), exec i s = .next t → t.faults ≠ s.faults →
    ∃ off, i = .peek off ∧ s.allocated = true ∧ s.levelQ ≤ off.toNat

/-! ### Comparators and snapshots -/

/-- The outputs of 41_queries.md R68: all 1 without a buffer; with one, empty means that the port sees level 0 and that
its pointers are equal, full that it sees `C − 1` and that one more place would make them equal. -/
def Obligations.ComparatorsMatchLevels : Prop :=
  ∀ s : State,
    s.outputs.allocated = s.allocated ∧
    (s.allocated = false →
      s.outputs.pEmpty = true ∧ s.outputs.pFull = true ∧ s.outputs.qEmpty = true ∧ s.outputs.qFull = true) ∧
    (s.Inv → s.allocated = true →
      let tv := if s.cfg.variant = .sync then s.tail.toNat else s.tailSeenP.toNat
      let hv := if s.cfg.variant = .sync then s.head.toNat else s.headSeenQ.toNat
      (s.outputs.pEmpty = true ↔ s.head.toNat = tv) ∧ (s.outputs.pEmpty = true ↔ s.seenByP = 0) ∧
      (s.outputs.pFull = true ↔ (s.head.toNat + 1) % s.cap.toNat = tv) ∧
      (s.outputs.pFull = true ↔ s.seenByP = s.cap.toNat - 1) ∧
      (s.outputs.qEmpty = true ↔ hv = s.tail.toNat) ∧ (s.outputs.qEmpty = true ↔ s.seenByQ = 0) ∧
      (s.outputs.qFull = true ↔ (hv + 1) % s.cap.toNat = s.tail.toNat) ∧
      (s.outputs.qFull = true ↔ s.seenByQ = s.cap.toNat - 1))

/-- `PUSH` answers `OK 0` exactly when `p_full` is 1 in its cycle, which is exactly when the room port P sees is 0
(R69). -/
def Obligations.PushFailsExactlyWhenFull : Prop :=
  ∀ (b : Byte) (s : State), s.Inv → s.allocated = true →
    ∃ t, exec (.push b) s = .next t ∧ (t.rspP = 0x00000000#32 ↔ s.outputs.pFull = true) ∧
      (s.outputs.pFull = true ↔ s.cap.toNat - s.seenByP - 1 = 0)

/-- With capacity 1 all four outputs are 1 (R70). -/
def Obligations.CapacityOneIsEmptyAndFull : Prop :=
  ∀ s : State, s.Inv → s.allocated = true → s.cap = 1#24 →
    s.outputs.pEmpty = true ∧ s.outputs.pFull = true ∧ s.outputs.qEmpty = true ∧ s.outputs.qFull = true

/-- What a port has read stays a safe bound until its own next move: the level port P sees does not grow while `HEAD`
stays, the level port Q sees does not shrink while `TAIL` stays (20_memory.md R44, 70_reset_and_hazards.md R118). -/
def Obligations.SafeBoundsUntilOwnMove : Prop :=
  ∀ s t : State, s.Inv → step s = .next t → s.allocated = true → t.allocated = true →
    (t.head = s.head → t.seenByP ≤ s.seenByP) ∧ (t.tail = s.tail → s.seenByQ ≤ t.seenByQ)

/-- A position port Q may peek keeps its byte and stays in range through every step that does not move `TAIL`, whatever
the producer pushes (70_reset_and_hazards.md R119, 20_memory.md R43). -/
def Obligations.InspectionIsStable : Prop :=
  ∀ (s t : State) (off : Nat), s.Inv → step s = .next t → s.allocated = true → t.allocated = true →
    t.tail = s.tail → off < s.seenByQ →
    off < t.seenByQ ∧
      t.memRead ((t.tail.toNat + off) % t.cap.toNat) = s.memRead ((s.tail.toNat + off) % s.cap.toNat)

/-- In a `SYNC` cycle what ports M and P do is the same whatever the consumer presents, and what ports M and Q do is the
same whatever the producer presents (44_cycle.md R79). -/
def Obligations.OthersDoNotSeeProducerOrConsumerWords : Prop :=
  ∀ s : State, s.cfg.variant = .sync →
    (∀ (ws ws' : List Word) (t t' : State),
      step { s with consumer := ws } = .next t → step { s with consumer := ws' } = .next t' →
      t.rspM = t'.rspM ∧ t.rspP = t'.rspP ∧ t.allocated = t'.allocated ∧ t.cap = t'.cap ∧
        t.head = t'.head ∧ t.mem = t'.mem ∧ t.writer = t'.writer ∧ t.writeResult = t'.writeResult) ∧
    (∀ (ps ps' : List ProducerAct) (t t' : State),
      step { s with producer := ps } = .next t → step { s with producer := ps' } = .next t' →
      t.rspM = t'.rspM ∧ t.rspQ = t'.rspQ ∧ t.allocated = t'.allocated ∧ t.cap = t'.cap ∧
        t.tail = t'.tail ∧ t.faults = t'.faults)

/-- In `CDC` the snapshots lie on their paths and so the levels and rooms the ports see are bounds
(45_cdc_variant.md R93). -/
def Obligations.CdcViewsAreBounds : Prop :=
  ∀ s : State, s.Inv → s.allocated = true → s.cfg.variant = .cdc →
    let level := ringDistance s.cap.toNat s.head.toNat s.tail.toNat
    s.between s.tailSeenP s.tail s.head = true ∧ s.between s.tail s.headSeenQ s.head = true ∧
    s.seenByQ ≤ level ∧ level ≤ s.seenByP ∧ s.seenByP ≤ s.cap.toNat - 1 ∧
    s.cap.toNat - s.seenByP - 1 ≤ s.cap.toNat - level - 1

/-- `SyncT` and `SyncH` (R90): allowed exactly on the ring path from the snapshot to the pointer; they write that
snapshot only. Elsewhere there is no move. That the value is a ring position, below the capacity, is read from R91
(log 20). -/
def Obligations.SnapshotsMoveOnlyForward : Prop :=
  ∀ (s : State) (v : Idx), s.cfg.variant = .cdc →
    (s.nextMove = .syncT v →
      let ok := s.allocated = true ∧ v.toNat < s.cap.toNat ∧
        ((v.toNat : Int) - s.tailSeenP.toNat) % s.cap.toNat ≤
          ((s.tail.toNat : Int) - s.tailSeenP.toNat) % s.cap.toNat
      (ok → step s = .next { s with sched := s.sched.tail, tailSeenP := v }) ∧
        (s.Inv → ¬ ok → step s = .fault .snapshotOffPath)) ∧
    (s.nextMove = .syncH v →
      let ok := s.allocated = true ∧ v.toNat < s.cap.toNat ∧
        ((v.toNat : Int) - s.headSeenQ.toNat) % s.cap.toNat ≤
          ((s.head.toNat : Int) - s.headSeenQ.toNat) % s.cap.toNat
      (ok → step s = .next { s with sched := s.sched.tail, headSeenQ := v }) ∧
        (s.Inv → ¬ ok → step s = .fault .snapshotOffPath))

/-- When the schedule has ended, both snapshots reach their pointers within two steps, so every infinite run of the model
is fair (R92). How the model goes on after its schedule is its choice (log 9). -/
def Obligations.SnapshotsCatchUp : Prop :=
  ∀ s : State, s.Inv → s.cfg.variant = .cdc → s.allocated = true → s.sched = [] →
    ∃ n ≤ 2, ∃ t : State, Sys2Proof.core.run n s = .next t ∧
      t.tailSeenP = t.tail ∧ t.headSeenQ = t.head ∧ t.content = s.content

/-- A management command inside the quiet time of port M, and a word other than `NOP` inside that of port Q, have no move
(R97). The countdowns are the model's form of the duty (log 11). -/
def Obligations.BrokenQuietTimeHasNoMove : Prop :=
  ∀ s : State, s.cfg.variant = .cdc →
    (∀ i, s.nextMove = .clkP → decode .M (s.manager.headD 0#32) = .ok i →
      (i = .free ∨ ∃ c, i = .alloc c) → 0 < s.mgmtHold → step s = .fault .quietBroken) ∧
    (s.nextMove = .clkQ → decode .Q (s.consumer.headD 0#32) ≠ .ok (.nop .Q) → 0 < s.qHold →
      step s = .fault .quietBroken)

/-- A reset of one clock domain alone has no move (R98). -/
def Obligations.OneDomainResetHasNoMove : Prop :=
  ∀ s : State, s.cfg.variant = .cdc → s.nextMove = .rstP ∨ s.nextMove = .rstQ →
    step s = .fault .oneDomainReset
end

