-- ==== Sys2Proof/Laws/Word.lean ====
section
/-! SUPPORT. The fields of a packed word, and of a response word (30_encoding.md R49, R51). -/

namespace Sys2Proof

theorem Word.pack_toNat (a b : Nibble) (v : Idx) :
    (Word.pack a b v).toNat = a.toNat * 2 ^ 28 + b.toNat * 2 ^ 24 + v.toNat := by
  have h1 := v.isLt
  have h2 := b.isLt
  simp only [Word.pack, BitVec.toNat_append]
  rw [← Nat.shiftLeft_add_eq_or_of_lt (by omega), ← Nat.shiftLeft_add_eq_or_of_lt (by omega)]
  simp only [Nat.shiftLeft_eq]
  omega

theorem Word.top_toNat (w : Word) : w.top.toNat = w.toNat / 2 ^ 28 := by
  have := w.isLt
  simp only [Word.top, BitVec.extractLsb'_toNat, Nat.shiftRight_eq_div_pow]
  omega

theorem Word.reserved_toNat (w : Word) : w.reserved.toNat = w.toNat / 2 ^ 24 % 16 := by
  simp only [Word.reserved, BitVec.extractLsb'_toNat, Nat.shiftRight_eq_div_pow]

theorem Word.low_toNat (w : Word) : w.low.toNat = w.toNat % 2 ^ 24 := by
  simp only [Word.low, BitVec.extractLsb'_toNat, Nat.shiftRight_zero]

@[simp] theorem Word.top_pack (a b : Nibble) (v : Idx) : (Word.pack a b v).top = a := by
  have h1 := v.isLt
  have h2 := b.isLt
  apply BitVec.eq_of_toNat_eq
  rw [Word.top_toNat, Word.pack_toNat]
  omega

@[simp] theorem Word.reserved_pack (a b : Nibble) (v : Idx) : (Word.pack a b v).reserved = b := by
  have h1 := v.isLt
  have h2 := b.isLt
  apply BitVec.eq_of_toNat_eq
  rw [Word.reserved_toNat, Word.pack_toNat]
  omega

@[simp] theorem Word.low_pack (a b : Nibble) (v : Idx) : (Word.pack a b v).low = v := by
  have h1 := v.isLt
  apply BitVec.eq_of_toNat_eq
  rw [Word.low_toNat, Word.pack_toNat]
  omega

/-- A word is its three fields. -/
theorem Word.pack_fields (w : Word) : Word.pack w.top w.reserved w.low = w := by
  apply BitVec.eq_of_toNat_eq
  rw [Word.pack_toNat, Word.top_toNat, Word.reserved_toNat, Word.low_toNat]
  omega

namespace Machine

@[simp] theorem response_top (st : Status) (v : Nat) : (response st v).top = st.code := by
  simp [response]

@[simp] theorem response_reserved (st : Status) (v : Nat) : (response st v).reserved = 0#4 := by
  simp [response]

@[simp] theorem response_low (st : Status) (v : Nat) :
    (response st v).low = BitVec.ofNat 24 v := by simp [response]

/-- An `OK` response is the value, zero-extended. -/
theorem response_ok {v : Nat} (h : v < 2 ^ 24) : response .ok v = BitVec.ofNat 32 v := by
  apply BitVec.eq_of_toNat_eq
  simp only [response, Word.pack_toNat, Status.code, BitVec.toNat_ofNat]
  omega

end Machine

end Sys2Proof
end

