-- ==== Sys2Proof/Laws/Decode.lean ====
section
/-! SUPPORT. What the decoder answers with: a command of its own port, well formed, never a pseudo-operation. -/

namespace Sys2Proof

theorem noOperand_ok {arg : Idx} {i j : Instr} (h : noOperand arg i = .ok j) : arg = 0#24 ∧ i = j := by
  unfold noOperand at h
  split_ifs at h with ha
  exact ⟨ha, by simpa using h⟩

theorem onPorts_ok {b : Bool} {r : Except Illegal Instr} {j : Instr} (h : onPorts b r = .ok j) :
    b = true ∧ r = .ok j := by
  unfold onPorts at h
  split_ifs at h with hb
  exact ⟨hb, h⟩

theorem byteOperand_ok {arg : Idx} {j : Instr} (h : (byteOperand arg).map Instr.push = .ok j) :
    arg.extractLsb' 8 16 = 0#16 ∧ j = .push (arg.extractLsb' 0 8) := by
  unfold byteOperand at h
  split_ifs at h with ha
  · simp only [Except.map, Except.ok.injEq] at h
    exact ⟨ha, h.symm⟩
  · simp [Except.map] at h

/-- The commands a port decodes to, each with its word's fields (30_encoding.md R57). -/
theorem decode_cases {x : Port} {w : Word} {i : Instr} (h : decode x w = .ok i) :
    w.reserved = 0#4 ∧
      ((w.top = 0x0#4 ∧ w.low = 0#24 ∧ i = .nop x) ∨
       (w.top = 0x1#4 ∧ x = .M ∧ i = .alloc w.low) ∨
       (w.top = 0x2#4 ∧ x = .M ∧ w.low = 0#24 ∧ i = .free) ∨
       (w.top = 0x3#4 ∧ x ≠ .M ∧ w.low = 0#24 ∧ i = .level x) ∨
       (w.top = 0x4#4 ∧ x ≠ .M ∧ w.low = 0#24 ∧ i = .room x) ∨
       (w.top = 0x5#4 ∧ x = .Q ∧ i = .peek w.low) ∨
       (w.top = 0x6#4 ∧ x = .Q ∧ i = .consume w.low) ∨
       (w.top = 0x7#4 ∧ x = .P ∧ w.low.extractLsb' 8 16 = 0#16 ∧ i = .push (w.low.extractLsb' 0 8))) := by
  have htop : ∀ (n : Nat), w.top.toNat = n → n < 16 → w.top = BitVec.ofNat 4 n := by
    intro n hn hlt
    apply BitVec.eq_of_toNat_eq
    simp [hn, Nat.mod_eq_of_lt hlt]
  unfold decode at h
  split_ifs at h with hr
  refine ⟨by simpa using hr, ?_⟩
  split at h
  · rename_i hn
    obtain ⟨h0, rfl⟩ := noOperand_ok h
    exact .inl ⟨htop _ hn (by decide), h0, rfl⟩
  · rename_i hn
    obtain ⟨hx, he⟩ := onPorts_ok h
    exact .inr (.inl ⟨htop _ hn (by decide), by simpa using hx, by simpa using he.symm⟩)
  · rename_i hn
    obtain ⟨hx, he⟩ := onPorts_ok h
    obtain ⟨h0, rfl⟩ := noOperand_ok he
    exact .inr (.inr (.inl ⟨htop _ hn (by decide), by simpa using hx, h0, rfl⟩))
  · rename_i hn
    obtain ⟨hx, he⟩ := onPorts_ok h
    obtain ⟨h0, rfl⟩ := noOperand_ok he
    exact .inr (.inr (.inr (.inl ⟨htop _ hn (by decide), by cases x <;> simp_all, h0, rfl⟩)))
  · rename_i hn
    obtain ⟨hx, he⟩ := onPorts_ok h
    obtain ⟨h0, rfl⟩ := noOperand_ok he
    exact .inr (.inr (.inr (.inr (.inl ⟨htop _ hn (by decide), by cases x <;> simp_all, h0, rfl⟩))))
  · rename_i hn
    obtain ⟨hx, he⟩ := onPorts_ok h
    exact .inr (.inr (.inr (.inr (.inr (.inl
      ⟨htop _ hn (by decide), by simpa using hx, by simpa using he.symm⟩)))))
  · rename_i hn
    obtain ⟨hx, he⟩ := onPorts_ok h
    exact .inr (.inr (.inr (.inr (.inr (.inr (.inl
      ⟨htop _ hn (by decide), by simpa using hx, by simpa using he.symm⟩))))))
  · rename_i hn
    obtain ⟨hx, he⟩ := onPorts_ok h
    obtain ⟨h0, rfl⟩ := byteOperand_ok he
    exact .inr (.inr (.inr (.inr (.inr (.inr (.inr
      ⟨htop _ hn (by decide), by simpa using hx, h0, rfl⟩))))))
  · cases h

/-- A port decodes only commands of its own (R55). -/
theorem decode_port {x : Port} {w : Word} {i : Instr} (h : decode x w = .ok i) : i.port = x := by
  obtain ⟨-, h⟩ := decode_cases h
  rcases h with h | h | h | h | h | h | h | h
  · rw [h.2.2]; rfl
  · rw [h.2.2, h.2.1]; rfl
  · rw [h.2.2.2, h.2.1]; rfl
  · rw [h.2.2.2]; rfl
  · rw [h.2.2.2]; rfl
  · rw [h.2.2, h.2.1]; rfl
  · rw [h.2.2, h.2.1]; rfl
  · rw [h.2.2.2, h.2.1]; rfl

/-- No word is a pseudo-operation (R60, R61). -/
theorem decode_isPseudo {x : Port} {w : Word} {i : Instr} (h : decode x w = .ok i) :
    i.isPseudo = false := by
  obtain ⟨-, h⟩ := decode_cases h
  rcases h with ⟨-, -, rfl⟩ | ⟨-, -, rfl⟩ | ⟨-, -, -, rfl⟩ | ⟨-, -, -, rfl⟩ | ⟨-, -, -, rfl⟩ |
    ⟨-, -, rfl⟩ | ⟨-, -, rfl⟩ | ⟨-, -, -, rfl⟩ <;> rfl

/-- A `PUSH` word's operand field, and back (R50). -/
theorem zeroExtend_byte_fields (b : Byte) :
    (b.zeroExtend 24).extractLsb' 8 16 = 0#16 ∧ (b.zeroExtend 24).extractLsb' 0 8 = b := by
  have := b.isLt
  constructor <;> apply BitVec.eq_of_toNat_eq <;>
    simp [BitVec.extractLsb'_toNat, Nat.shiftRight_eq_div_pow] <;> omega

theorem zeroExtend_byte_of_fields {v : Idx} (h : v.extractLsb' 8 16 = 0#16) :
    (v.extractLsb' 0 8).zeroExtend 24 = v := by
  have h' := congrArg BitVec.toNat h
  have hv := v.isLt
  simp only [BitVec.extractLsb'_toNat, Nat.shiftRight_eq_div_pow, BitVec.toNat_ofNat] at h'
  apply BitVec.eq_of_toNat_eq
  simp [BitVec.extractLsb'_toNat]
  omega

end Sys2Proof
end

