-- ==== Sys2Proof/Laws/Ring.lean ====
section
/-! SUPPORT. Ring arithmetic: the conditional forms of 00_scope.md R15 and what follows from them. -/

namespace Sys2Proof.Machine

/-- `lvl` by one conditional (R15). -/
theorem lvl_eq {c h t : Nat} (hh : h < c) (ht : t < c) :
    lvl c h t = if t ≤ h then h - t else h + c - t := by
  unfold lvl
  split
  · rw [Int.emod_eq_of_lt (by omega) (by omega)]; omega
  · rw [← Int.add_emod_right, Int.emod_eq_of_lt (by omega) (by omega)]; omega

/-- The level is always below the capacity (10_state.md R26). -/
theorem lvl_lt {c : Nat} (hc : 0 < c) (h t : Nat) : lvl c h t < c := by
  unfold lvl
  have h0 := Int.emod_nonneg ((h : Int) - t) (b := (c : Int)) (by omega)
  have h1 := Int.emod_lt_of_pos ((h : Int) - t) (b := (c : Int)) (by omega)
  omega

@[simp] theorem lvl_self (c h : Nat) : lvl c h h = 0 := by simp [lvl]

/-- `inc` by one conditional subtraction (R15). -/
theorem inc_eq {c p n : Nat} (hp : p < c) (hn : n ≤ c) :
    inc c p n = if c ≤ p + n then p + n - c else p + n := by
  unfold inc
  split
  · rw [Nat.mod_eq_sub_mod (by assumption)]
    by_cases h : n = c
    · subst h; rw [Nat.mod_eq_of_lt (by omega)]
    · rw [Nat.mod_eq_of_lt (by omega)]
  · exact Nat.mod_eq_of_lt (by omega)

theorem inc_lt {c : Nat} (hc : 0 < c) (p n : Nat) : inc c p n < c := Nat.mod_lt _ hc

/-- A pointer written back is the pointer computed, since it fits (R9). -/
theorem pointer_toNat {n : Nat} (h : n < 2 ^ 24) : (pointer n).toNat = n := by
  simp only [pointer, BitVec.toNat_ofNat, Nat.mod_eq_of_lt h]

theorem pointer_inc_toNat (c : Idx) (p n : Nat) (hc : 0 < c.toNat) :
    (pointer (inc c.toNat p n)).toNat = inc c.toNat p n :=
  pointer_toNat (lt_trans (inc_lt hc p n) c.isLt)

/-- Advancing the write pointer by one lengthens the queue by one, while one slot stays unused. -/
theorem lvl_inc_head {c h t : Nat} (hh : h < c) (ht : t < c) (room : lvl c h t < c - 1) :
    lvl c (inc c h 1) t = lvl c h t + 1 := by
  have hi := inc_lt (c := c) (by omega) h 1
  rw [lvl_eq hh ht] at *
  rw [lvl_eq hi ht, inc_eq hh (by omega)]
  split_ifs at * <;> omega

/-- Advancing the read pointer by `k` shortens the queue by `k`. -/
theorem lvl_inc_tail {c h t k : Nat} (hh : h < c) (ht : t < c) (hk : k ≤ lvl c h t) :
    lvl c h (inc c t k) = lvl c h t - k := by
  have hl := lvl_lt (c := c) (by omega) h t
  have hi := inc_lt (c := c) (by omega) t k
  rw [lvl_eq hh ht] at *
  rw [lvl_eq hh hi, inc_eq ht (by omega)]
  split_ifs at * <;> omega

theorem inc_inc {c p m n : Nat} : inc c (inc c p m) n = inc c p (m + n) := by
  unfold inc; rw [Nat.mod_add_mod, Nat.add_assoc]

/-- The cell at position `lvl` from the read pointer is the one the write pointer names. -/
theorem inc_lvl {c h t : Nat} (hh : h < c) (ht : t < c) : inc c t (lvl c h t) = h := by
  have hl := lvl_lt (c := c) (by omega) h t
  rw [lvl_eq hh ht] at *
  rw [inc_eq ht (by omega)]
  split_ifs at * <;> omega

/-- Two positions of the ring are different cells. -/
theorem inc_inj {c p m n : Nat} (hp : p < c) (hm : m < c) (hn : n < c) (h : inc c p m = inc c p n) :
    m = n := by
  rw [inc_eq hp (by omega), inc_eq hp (by omega)] at h
  split_ifs at h <;> omega

end Sys2Proof.Machine
end

