-- ==== Sys2Proof/Laws/State.lean ====
section
/-! SUPPORT. One lemma a field an update: what each named update of State leaves in each field. -/

namespace Sys2Proof.Machine

variable (s : State)

@[simp] theorem State.append_cfg (b : Byte) : (s.append b).cfg = s.cfg := rfl
@[simp] theorem State.append_allocated (b : Byte) : (s.append b).allocated = s.allocated := rfl
@[simp] theorem State.append_cap (b : Byte) : (s.append b).cap = s.cap := rfl
@[simp] theorem State.append_head (b : Byte) : (s.append b).head = pointer (inc s.cap.toNat s.head.toNat 1) := rfl
@[simp] theorem State.append_tail (b : Byte) : (s.append b).tail = s.tail := rfl
@[simp] theorem State.append_mem (b : Byte) : (s.append b).mem = s.mem.write s.head.toNat b := rfl
@[simp] theorem State.append_rspM (b : Byte) : (s.append b).rspM = s.rspM := rfl
@[simp] theorem State.append_rspP (b : Byte) : (s.append b).rspP = s.rspP := rfl
@[simp] theorem State.append_rspQ (b : Byte) : (s.append b).rspQ = s.rspQ := rfl
@[simp] theorem State.append_tailSeenP (b : Byte) : (s.append b).tailSeenP = s.tailSeenP := rfl
@[simp] theorem State.append_headSeenQ (b : Byte) : (s.append b).headSeenQ = s.headSeenQ := rfl
@[simp] theorem State.append_faults (b : Byte) : (s.append b).faults = s.faults := rfl
@[simp] theorem State.append_draws (b : Byte) : (s.append b).draws = s.draws := rfl
@[simp] theorem State.append_era (b : Byte) : (s.append b).era = s.era := rfl
@[simp] theorem State.append_manager (b : Byte) : (s.append b).manager = s.manager := rfl
@[simp] theorem State.append_producer (b : Byte) : (s.append b).producer = s.producer := rfl
@[simp] theorem State.append_consumer (b : Byte) : (s.append b).consumer = s.consumer := rfl
@[simp] theorem State.append_sched (b : Byte) : (s.append b).sched = s.sched := rfl
@[simp] theorem State.append_writer (b : Byte) : (s.append b).writer = s.writer := rfl
@[simp] theorem State.append_writeResult (b : Byte) : (s.append b).writeResult = s.writeResult := rfl
@[simp] theorem State.append_mgmtHold (b : Byte) : (s.append b).mgmtHold = s.mgmtHold := rfl
@[simp] theorem State.append_qHold (b : Byte) : (s.append b).qHold = s.qHold := rfl

@[simp] theorem State.remove_cfg (k : Nat) : (s.remove k).cfg = s.cfg := rfl
@[simp] theorem State.remove_allocated (k : Nat) : (s.remove k).allocated = s.allocated := rfl
@[simp] theorem State.remove_cap (k : Nat) : (s.remove k).cap = s.cap := rfl
@[simp] theorem State.remove_head (k : Nat) : (s.remove k).head = s.head := rfl
@[simp] theorem State.remove_tail (k : Nat) : (s.remove k).tail = pointer (inc s.cap.toNat s.tail.toNat k) := rfl
@[simp] theorem State.remove_mem (k : Nat) : (s.remove k).mem = s.mem := rfl
@[simp] theorem State.remove_rspM (k : Nat) : (s.remove k).rspM = s.rspM := rfl
@[simp] theorem State.remove_rspP (k : Nat) : (s.remove k).rspP = s.rspP := rfl
@[simp] theorem State.remove_rspQ (k : Nat) : (s.remove k).rspQ = s.rspQ := rfl
@[simp] theorem State.remove_tailSeenP (k : Nat) : (s.remove k).tailSeenP = s.tailSeenP := rfl
@[simp] theorem State.remove_headSeenQ (k : Nat) : (s.remove k).headSeenQ = s.headSeenQ := rfl
@[simp] theorem State.remove_faults (k : Nat) : (s.remove k).faults = s.faults := rfl
@[simp] theorem State.remove_draws (k : Nat) : (s.remove k).draws = s.draws := rfl
@[simp] theorem State.remove_era (k : Nat) : (s.remove k).era = s.era := rfl
@[simp] theorem State.remove_manager (k : Nat) : (s.remove k).manager = s.manager := rfl
@[simp] theorem State.remove_producer (k : Nat) : (s.remove k).producer = s.producer := rfl
@[simp] theorem State.remove_consumer (k : Nat) : (s.remove k).consumer = s.consumer := rfl
@[simp] theorem State.remove_sched (k : Nat) : (s.remove k).sched = s.sched := rfl
@[simp] theorem State.remove_writer (k : Nat) : (s.remove k).writer = s.writer := rfl
@[simp] theorem State.remove_writeResult (k : Nat) : (s.remove k).writeResult = s.writeResult := rfl
@[simp] theorem State.remove_mgmtHold (k : Nat) : (s.remove k).mgmtHold = s.mgmtHold := rfl
@[simp] theorem State.remove_qHold (k : Nat) : (s.remove k).qHold = s.qHold := rfl

@[simp] theorem State.peekFault_cfg : s.peekFault.cfg = s.cfg := rfl
@[simp] theorem State.peekFault_allocated : s.peekFault.allocated = s.allocated := rfl
@[simp] theorem State.peekFault_cap : s.peekFault.cap = s.cap := rfl
@[simp] theorem State.peekFault_head : s.peekFault.head = s.head := rfl
@[simp] theorem State.peekFault_tail : s.peekFault.tail = s.tail := rfl
@[simp] theorem State.peekFault_mem : s.peekFault.mem = s.mem := rfl
@[simp] theorem State.peekFault_rspM : s.peekFault.rspM = s.rspM := rfl
@[simp] theorem State.peekFault_rspP : s.peekFault.rspP = s.rspP := rfl
@[simp] theorem State.peekFault_rspQ : s.peekFault.rspQ = s.rspQ := rfl
@[simp] theorem State.peekFault_tailSeenP : s.peekFault.tailSeenP = s.tailSeenP := rfl
@[simp] theorem State.peekFault_headSeenQ : s.peekFault.headSeenQ = s.headSeenQ := rfl
@[simp] theorem State.peekFault_faults : s.peekFault.faults = { s.faults with peekOutOfRange := true } := rfl
@[simp] theorem State.peekFault_draws : s.peekFault.draws = s.draws + 1 := rfl
@[simp] theorem State.peekFault_era : s.peekFault.era = s.era := rfl
@[simp] theorem State.peekFault_manager : s.peekFault.manager = s.manager := rfl
@[simp] theorem State.peekFault_producer : s.peekFault.producer = s.producer := rfl
@[simp] theorem State.peekFault_consumer : s.peekFault.consumer = s.consumer := rfl
@[simp] theorem State.peekFault_sched : s.peekFault.sched = s.sched := rfl
@[simp] theorem State.peekFault_writer : s.peekFault.writer = s.writer := rfl
@[simp] theorem State.peekFault_writeResult : s.peekFault.writeResult = s.writeResult := rfl
@[simp] theorem State.peekFault_mgmtHold : s.peekFault.mgmtHold = s.mgmtHold := rfl
@[simp] theorem State.peekFault_qHold : s.peekFault.qHold = s.qHold := rfl

@[simp] theorem State.clearViews_cfg : s.clearViews.cfg = s.cfg := by unfold State.clearViews; split <;> rfl
@[simp] theorem State.clearViews_allocated : s.clearViews.allocated = s.allocated := by unfold State.clearViews; split <;> rfl
@[simp] theorem State.clearViews_cap : s.clearViews.cap = s.cap := by unfold State.clearViews; split <;> rfl
@[simp] theorem State.clearViews_head : s.clearViews.head = s.head := by unfold State.clearViews; split <;> rfl
@[simp] theorem State.clearViews_tail : s.clearViews.tail = s.tail := by unfold State.clearViews; split <;> rfl
@[simp] theorem State.clearViews_mem : s.clearViews.mem = s.mem := by unfold State.clearViews; split <;> rfl
@[simp] theorem State.clearViews_rspM : s.clearViews.rspM = s.rspM := by unfold State.clearViews; split <;> rfl
@[simp] theorem State.clearViews_rspP : s.clearViews.rspP = s.rspP := by unfold State.clearViews; split <;> rfl
@[simp] theorem State.clearViews_rspQ : s.clearViews.rspQ = s.rspQ := by unfold State.clearViews; split <;> rfl
@[simp] theorem State.clearViews_faults : s.clearViews.faults = s.faults := by unfold State.clearViews; split <;> rfl
@[simp] theorem State.clearViews_draws : s.clearViews.draws = s.draws := by unfold State.clearViews; split <;> rfl
@[simp] theorem State.clearViews_era : s.clearViews.era = s.era := by unfold State.clearViews; split <;> rfl
@[simp] theorem State.clearViews_manager : s.clearViews.manager = s.manager := by unfold State.clearViews; split <;> rfl
@[simp] theorem State.clearViews_producer : s.clearViews.producer = s.producer := by unfold State.clearViews; split <;> rfl
@[simp] theorem State.clearViews_consumer : s.clearViews.consumer = s.consumer := by unfold State.clearViews; split <;> rfl
@[simp] theorem State.clearViews_sched : s.clearViews.sched = s.sched := by unfold State.clearViews; split <;> rfl
@[simp] theorem State.clearViews_writer : s.clearViews.writer = s.writer := by unfold State.clearViews; split <;> rfl
@[simp] theorem State.clearViews_writeResult : s.clearViews.writeResult = s.writeResult := by unfold State.clearViews; split <;> rfl
@[simp] theorem State.clearViews_mgmtHold : s.clearViews.mgmtHold = s.mgmtHold := by unfold State.clearViews; split <;> rfl
@[simp] theorem State.clearViews_qHold : s.clearViews.qHold = s.qHold := by unfold State.clearViews; split <;> rfl

@[simp] theorem State.createBuffer_cfg (c : Idx) : (s.createBuffer c).cfg = s.cfg := by simp [State.createBuffer]
@[simp] theorem State.createBuffer_allocated (c : Idx) : (s.createBuffer c).allocated = true := by simp [State.createBuffer]
@[simp] theorem State.createBuffer_cap (c : Idx) : (s.createBuffer c).cap = c := by simp [State.createBuffer]
@[simp] theorem State.createBuffer_head (c : Idx) : (s.createBuffer c).head = 0#24 := by simp [State.createBuffer]
@[simp] theorem State.createBuffer_tail (c : Idx) : (s.createBuffer c).tail = 0#24 := by simp [State.createBuffer]
@[simp] theorem State.createBuffer_mem (c : Idx) : (s.createBuffer c).mem = s.mem.zeroFill c.toNat := by simp [State.createBuffer]
@[simp] theorem State.createBuffer_rspM (c : Idx) : (s.createBuffer c).rspM = s.rspM := by simp [State.createBuffer]
@[simp] theorem State.createBuffer_rspP (c : Idx) : (s.createBuffer c).rspP = s.rspP := by simp [State.createBuffer]
@[simp] theorem State.createBuffer_rspQ (c : Idx) : (s.createBuffer c).rspQ = s.rspQ := by simp [State.createBuffer]
@[simp] theorem State.createBuffer_tailSeenP (c : Idx) : (s.createBuffer c).tailSeenP = s.clearViews.tailSeenP := by simp [State.createBuffer]
@[simp] theorem State.createBuffer_headSeenQ (c : Idx) : (s.createBuffer c).headSeenQ = s.clearViews.headSeenQ := by simp [State.createBuffer]
@[simp] theorem State.createBuffer_faults (c : Idx) : (s.createBuffer c).faults = s.faults := by simp [State.createBuffer]
@[simp] theorem State.createBuffer_draws (c : Idx) : (s.createBuffer c).draws = s.draws := by simp [State.createBuffer]
@[simp] theorem State.createBuffer_era (c : Idx) : (s.createBuffer c).era = s.era := by simp [State.createBuffer]
@[simp] theorem State.createBuffer_manager (c : Idx) : (s.createBuffer c).manager = s.manager := by simp [State.createBuffer]
@[simp] theorem State.createBuffer_producer (c : Idx) : (s.createBuffer c).producer = s.producer := by simp [State.createBuffer]
@[simp] theorem State.createBuffer_consumer (c : Idx) : (s.createBuffer c).consumer = s.consumer := by simp [State.createBuffer]
@[simp] theorem State.createBuffer_sched (c : Idx) : (s.createBuffer c).sched = s.sched := by simp [State.createBuffer]
@[simp] theorem State.createBuffer_writer (c : Idx) : (s.createBuffer c).writer = s.writer := by simp [State.createBuffer]
@[simp] theorem State.createBuffer_writeResult (c : Idx) : (s.createBuffer c).writeResult = s.writeResult := by simp [State.createBuffer]
@[simp] theorem State.createBuffer_mgmtHold (c : Idx) : (s.createBuffer c).mgmtHold = s.mgmtHold := by simp [State.createBuffer]
@[simp] theorem State.createBuffer_qHold (c : Idx) : (s.createBuffer c).qHold = s.qHold := by simp [State.createBuffer]

@[simp] theorem State.releaseBuffer_cfg : s.releaseBuffer.cfg = s.cfg := by simp [State.releaseBuffer]
@[simp] theorem State.releaseBuffer_allocated : s.releaseBuffer.allocated = false := by simp [State.releaseBuffer]
@[simp] theorem State.releaseBuffer_cap : s.releaseBuffer.cap = 0#24 := by simp [State.releaseBuffer]
@[simp] theorem State.releaseBuffer_head : s.releaseBuffer.head = 0#24 := by simp [State.releaseBuffer]
@[simp] theorem State.releaseBuffer_tail : s.releaseBuffer.tail = 0#24 := by simp [State.releaseBuffer]
@[simp] theorem State.releaseBuffer_mem : s.releaseBuffer.mem = s.mem := by simp [State.releaseBuffer]
@[simp] theorem State.releaseBuffer_rspM : s.releaseBuffer.rspM = s.rspM := by simp [State.releaseBuffer]
@[simp] theorem State.releaseBuffer_rspP : s.releaseBuffer.rspP = s.rspP := by simp [State.releaseBuffer]
@[simp] theorem State.releaseBuffer_rspQ : s.releaseBuffer.rspQ = s.rspQ := by simp [State.releaseBuffer]
@[simp] theorem State.releaseBuffer_tailSeenP : s.releaseBuffer.tailSeenP = s.clearViews.tailSeenP := by simp [State.releaseBuffer]
@[simp] theorem State.releaseBuffer_headSeenQ : s.releaseBuffer.headSeenQ = s.clearViews.headSeenQ := by simp [State.releaseBuffer]
@[simp] theorem State.releaseBuffer_faults : s.releaseBuffer.faults = s.faults := by simp [State.releaseBuffer]
@[simp] theorem State.releaseBuffer_draws : s.releaseBuffer.draws = s.draws := by simp [State.releaseBuffer]
@[simp] theorem State.releaseBuffer_era : s.releaseBuffer.era = s.era := by simp [State.releaseBuffer]
@[simp] theorem State.releaseBuffer_manager : s.releaseBuffer.manager = s.manager := by simp [State.releaseBuffer]
@[simp] theorem State.releaseBuffer_producer : s.releaseBuffer.producer = s.producer := by simp [State.releaseBuffer]
@[simp] theorem State.releaseBuffer_consumer : s.releaseBuffer.consumer = s.consumer := by simp [State.releaseBuffer]
@[simp] theorem State.releaseBuffer_sched : s.releaseBuffer.sched = s.sched := by simp [State.releaseBuffer]
@[simp] theorem State.releaseBuffer_writer : s.releaseBuffer.writer = s.writer := by simp [State.releaseBuffer]
@[simp] theorem State.releaseBuffer_writeResult : s.releaseBuffer.writeResult = s.writeResult := by simp [State.releaseBuffer]
@[simp] theorem State.releaseBuffer_mgmtHold : s.releaseBuffer.mgmtHold = s.mgmtHold := by simp [State.releaseBuffer]
@[simp] theorem State.releaseBuffer_qHold : s.releaseBuffer.qHold = s.qHold := by simp [State.releaseBuffer]

@[simp] theorem State.issueWrite_cfg (data : List Byte) : (s.issueWrite data).cfg = s.cfg := by cases data <;> rfl
@[simp] theorem State.issueWrite_allocated (data : List Byte) : (s.issueWrite data).allocated = s.allocated := by cases data <;> rfl
@[simp] theorem State.issueWrite_cap (data : List Byte) : (s.issueWrite data).cap = s.cap := by cases data <;> rfl
@[simp] theorem State.issueWrite_head (data : List Byte) : (s.issueWrite data).head = s.head := by cases data <;> rfl
@[simp] theorem State.issueWrite_tail (data : List Byte) : (s.issueWrite data).tail = s.tail := by cases data <;> rfl
@[simp] theorem State.issueWrite_mem (data : List Byte) : (s.issueWrite data).mem = s.mem := by cases data <;> rfl
@[simp] theorem State.issueWrite_rspM (data : List Byte) : (s.issueWrite data).rspM = s.rspM := by cases data <;> rfl
@[simp] theorem State.issueWrite_rspP (data : List Byte) : (s.issueWrite data).rspP = s.rspP := by cases data <;> rfl
@[simp] theorem State.issueWrite_rspQ (data : List Byte) : (s.issueWrite data).rspQ = s.rspQ := by cases data <;> rfl
@[simp] theorem State.issueWrite_tailSeenP (data : List Byte) : (s.issueWrite data).tailSeenP = s.tailSeenP := by cases data <;> rfl
@[simp] theorem State.issueWrite_headSeenQ (data : List Byte) : (s.issueWrite data).headSeenQ = s.headSeenQ := by cases data <;> rfl
@[simp] theorem State.issueWrite_faults (data : List Byte) : (s.issueWrite data).faults = s.faults := by cases data <;> rfl
@[simp] theorem State.issueWrite_draws (data : List Byte) : (s.issueWrite data).draws = s.draws := by cases data <;> rfl
@[simp] theorem State.issueWrite_era (data : List Byte) : (s.issueWrite data).era = s.era := by cases data <;> rfl
@[simp] theorem State.issueWrite_manager (data : List Byte) : (s.issueWrite data).manager = s.manager := by cases data <;> rfl
@[simp] theorem State.issueWrite_producer (data : List Byte) : (s.issueWrite data).producer = s.producer := by cases data <;> rfl
@[simp] theorem State.issueWrite_consumer (data : List Byte) : (s.issueWrite data).consumer = s.consumer := by cases data <;> rfl
@[simp] theorem State.issueWrite_sched (data : List Byte) : (s.issueWrite data).sched = s.sched := by cases data <;> rfl
@[simp] theorem State.issueWrite_mgmtHold (data : List Byte) : (s.issueWrite data).mgmtHold = s.mgmtHold := by cases data <;> rfl
@[simp] theorem State.issueWrite_qHold (data : List Byte) : (s.issueWrite data).qHold = s.qHold := by cases data <;> rfl

@[simp] theorem State.issue_cfg (i : Instr) : (s.issue i).cfg = s.cfg := by cases i <;> simp [State.issue]
@[simp] theorem State.issue_allocated (i : Instr) : (s.issue i).allocated = s.allocated := by cases i <;> simp [State.issue]
@[simp] theorem State.issue_cap (i : Instr) : (s.issue i).cap = s.cap := by cases i <;> simp [State.issue]
@[simp] theorem State.issue_head (i : Instr) : (s.issue i).head = s.head := by cases i <;> simp [State.issue]
@[simp] theorem State.issue_tail (i : Instr) : (s.issue i).tail = s.tail := by cases i <;> simp [State.issue]
@[simp] theorem State.issue_mem (i : Instr) : (s.issue i).mem = s.mem := by cases i <;> simp [State.issue]
@[simp] theorem State.issue_rspM (i : Instr) : (s.issue i).rspM = s.rspM := by cases i <;> simp [State.issue]
@[simp] theorem State.issue_rspP (i : Instr) : (s.issue i).rspP = s.rspP := by cases i <;> simp [State.issue]
@[simp] theorem State.issue_rspQ (i : Instr) : (s.issue i).rspQ = s.rspQ := by cases i <;> simp [State.issue]
@[simp] theorem State.issue_tailSeenP (i : Instr) : (s.issue i).tailSeenP = s.tailSeenP := by cases i <;> simp [State.issue]
@[simp] theorem State.issue_headSeenQ (i : Instr) : (s.issue i).headSeenQ = s.headSeenQ := by cases i <;> simp [State.issue]
@[simp] theorem State.issue_faults (i : Instr) : (s.issue i).faults = s.faults := by cases i <;> simp [State.issue]
@[simp] theorem State.issue_draws (i : Instr) : (s.issue i).draws = s.draws := by cases i <;> simp [State.issue]
@[simp] theorem State.issue_era (i : Instr) : (s.issue i).era = s.era := by cases i <;> simp [State.issue]
@[simp] theorem State.issue_manager (i : Instr) : (s.issue i).manager = s.manager := by cases i <;> simp [State.issue]
@[simp] theorem State.issue_producer (i : Instr) : (s.issue i).producer = s.producer := by cases i <;> simp [State.issue]
@[simp] theorem State.issue_consumer (i : Instr) : (s.issue i).consumer = s.consumer := by cases i <;> simp [State.issue]
@[simp] theorem State.issue_sched (i : Instr) : (s.issue i).sched = s.sched := by cases i <;> simp [State.issue]
@[simp] theorem State.issue_mgmtHold (i : Instr) : (s.issue i).mgmtHold = s.mgmtHold := by cases i <;> simp [State.issue]
@[simp] theorem State.issue_qHold (i : Instr) : (s.issue i).qHold = s.qHold := by cases i <;> simp [State.issue]

@[simp] theorem State.observeWrite_cfg : s.observeWrite.cfg = s.cfg := by unfold State.observeWrite; (repeat' split) <;> rfl
@[simp] theorem State.observeWrite_allocated : s.observeWrite.allocated = s.allocated := by unfold State.observeWrite; (repeat' split) <;> rfl
@[simp] theorem State.observeWrite_cap : s.observeWrite.cap = s.cap := by unfold State.observeWrite; (repeat' split) <;> rfl
@[simp] theorem State.observeWrite_head : s.observeWrite.head = s.head := by unfold State.observeWrite; (repeat' split) <;> rfl
@[simp] theorem State.observeWrite_tail : s.observeWrite.tail = s.tail := by unfold State.observeWrite; (repeat' split) <;> rfl
@[simp] theorem State.observeWrite_mem : s.observeWrite.mem = s.mem := by unfold State.observeWrite; (repeat' split) <;> rfl
@[simp] theorem State.observeWrite_rspM : s.observeWrite.rspM = s.rspM := by unfold State.observeWrite; (repeat' split) <;> rfl
@[simp] theorem State.observeWrite_rspP : s.observeWrite.rspP = s.rspP := by unfold State.observeWrite; (repeat' split) <;> rfl
@[simp] theorem State.observeWrite_rspQ : s.observeWrite.rspQ = s.rspQ := by unfold State.observeWrite; (repeat' split) <;> rfl
@[simp] theorem State.observeWrite_tailSeenP : s.observeWrite.tailSeenP = s.tailSeenP := by unfold State.observeWrite; (repeat' split) <;> rfl
@[simp] theorem State.observeWrite_headSeenQ : s.observeWrite.headSeenQ = s.headSeenQ := by unfold State.observeWrite; (repeat' split) <;> rfl
@[simp] theorem State.observeWrite_faults : s.observeWrite.faults = s.faults := by unfold State.observeWrite; (repeat' split) <;> rfl
@[simp] theorem State.observeWrite_draws : s.observeWrite.draws = s.draws := by unfold State.observeWrite; (repeat' split) <;> rfl
@[simp] theorem State.observeWrite_era : s.observeWrite.era = s.era := by unfold State.observeWrite; (repeat' split) <;> rfl
@[simp] theorem State.observeWrite_manager : s.observeWrite.manager = s.manager := by unfold State.observeWrite; (repeat' split) <;> rfl
@[simp] theorem State.observeWrite_producer : s.observeWrite.producer = s.producer := by unfold State.observeWrite; (repeat' split) <;> rfl
@[simp] theorem State.observeWrite_consumer : s.observeWrite.consumer = s.consumer := by unfold State.observeWrite; (repeat' split) <;> rfl
@[simp] theorem State.observeWrite_sched : s.observeWrite.sched = s.sched := by unfold State.observeWrite; (repeat' split) <;> rfl
@[simp] theorem State.observeWrite_mgmtHold : s.observeWrite.mgmtHold = s.mgmtHold := by unfold State.observeWrite; (repeat' split) <;> rfl
@[simp] theorem State.observeWrite_qHold : s.observeWrite.qHold = s.qHold := by unfold State.observeWrite; (repeat' split) <;> rfl

@[simp] theorem State.resetRegisters_cfg : s.resetRegisters.cfg = s.cfg := rfl
@[simp] theorem State.resetRegisters_allocated : s.resetRegisters.allocated = false := rfl
@[simp] theorem State.resetRegisters_cap : s.resetRegisters.cap = 0#24 := rfl
@[simp] theorem State.resetRegisters_head : s.resetRegisters.head = 0#24 := rfl
@[simp] theorem State.resetRegisters_tail : s.resetRegisters.tail = 0#24 := rfl
@[simp] theorem State.resetRegisters_mem : s.resetRegisters.mem = Memory.blank := rfl
@[simp] theorem State.resetRegisters_rspM : s.resetRegisters.rspM = 0#32 := rfl
@[simp] theorem State.resetRegisters_rspP : s.resetRegisters.rspP = 0#32 := rfl
@[simp] theorem State.resetRegisters_rspQ : s.resetRegisters.rspQ = 0#32 := rfl
@[simp] theorem State.resetRegisters_tailSeenP : s.resetRegisters.tailSeenP = 0#24 := rfl
@[simp] theorem State.resetRegisters_headSeenQ : s.resetRegisters.headSeenQ = 0#24 := rfl
@[simp] theorem State.resetRegisters_faults : s.resetRegisters.faults = s.faults := rfl
@[simp] theorem State.resetRegisters_draws : s.resetRegisters.draws = s.draws := rfl
@[simp] theorem State.resetRegisters_era : s.resetRegisters.era = s.era + 1 := rfl
@[simp] theorem State.resetRegisters_manager : s.resetRegisters.manager = s.manager := rfl
@[simp] theorem State.resetRegisters_producer : s.resetRegisters.producer = s.producer := rfl
@[simp] theorem State.resetRegisters_consumer : s.resetRegisters.consumer = s.consumer := rfl
@[simp] theorem State.resetRegisters_sched : s.resetRegisters.sched = s.sched := rfl
@[simp] theorem State.resetRegisters_writer : s.resetRegisters.writer = s.writer := rfl
@[simp] theorem State.resetRegisters_writeResult : s.resetRegisters.writeResult = s.writeResult := rfl
@[simp] theorem State.resetRegisters_mgmtHold : s.resetRegisters.mgmtHold = 0 := rfl
@[simp] theorem State.resetRegisters_qHold : s.resetRegisters.qHold = 0 := rfl

@[simp] theorem State.popManager_cfg : s.popManager.cfg = s.cfg := rfl
@[simp] theorem State.popManager_allocated : s.popManager.allocated = s.allocated := rfl
@[simp] theorem State.popManager_cap : s.popManager.cap = s.cap := rfl
@[simp] theorem State.popManager_head : s.popManager.head = s.head := rfl
@[simp] theorem State.popManager_tail : s.popManager.tail = s.tail := rfl
@[simp] theorem State.popManager_mem : s.popManager.mem = s.mem := rfl
@[simp] theorem State.popManager_rspM : s.popManager.rspM = s.rspM := rfl
@[simp] theorem State.popManager_rspP : s.popManager.rspP = s.rspP := rfl
@[simp] theorem State.popManager_rspQ : s.popManager.rspQ = s.rspQ := rfl
@[simp] theorem State.popManager_tailSeenP : s.popManager.tailSeenP = s.tailSeenP := rfl
@[simp] theorem State.popManager_headSeenQ : s.popManager.headSeenQ = s.headSeenQ := rfl
@[simp] theorem State.popManager_faults : s.popManager.faults = s.faults := rfl
@[simp] theorem State.popManager_draws : s.popManager.draws = s.draws := rfl
@[simp] theorem State.popManager_era : s.popManager.era = s.era := rfl
@[simp] theorem State.popManager_manager : s.popManager.manager = s.manager.tail := rfl
@[simp] theorem State.popManager_producer : s.popManager.producer = s.producer := rfl
@[simp] theorem State.popManager_consumer : s.popManager.consumer = s.consumer := rfl
@[simp] theorem State.popManager_sched : s.popManager.sched = s.sched := rfl
@[simp] theorem State.popManager_writer : s.popManager.writer = s.writer := rfl
@[simp] theorem State.popManager_writeResult : s.popManager.writeResult = s.writeResult := rfl
@[simp] theorem State.popManager_mgmtHold : s.popManager.mgmtHold = s.mgmtHold := rfl
@[simp] theorem State.popManager_qHold : s.popManager.qHold = s.qHold := rfl

@[simp] theorem State.popConsumer_cfg : s.popConsumer.cfg = s.cfg := rfl
@[simp] theorem State.popConsumer_allocated : s.popConsumer.allocated = s.allocated := rfl
@[simp] theorem State.popConsumer_cap : s.popConsumer.cap = s.cap := rfl
@[simp] theorem State.popConsumer_head : s.popConsumer.head = s.head := rfl
@[simp] theorem State.popConsumer_tail : s.popConsumer.tail = s.tail := rfl
@[simp] theorem State.popConsumer_mem : s.popConsumer.mem = s.mem := rfl
@[simp] theorem State.popConsumer_rspM : s.popConsumer.rspM = s.rspM := rfl
@[simp] theorem State.popConsumer_rspP : s.popConsumer.rspP = s.rspP := rfl
@[simp] theorem State.popConsumer_rspQ : s.popConsumer.rspQ = s.rspQ := rfl
@[simp] theorem State.popConsumer_tailSeenP : s.popConsumer.tailSeenP = s.tailSeenP := rfl
@[simp] theorem State.popConsumer_headSeenQ : s.popConsumer.headSeenQ = s.headSeenQ := rfl
@[simp] theorem State.popConsumer_faults : s.popConsumer.faults = s.faults := rfl
@[simp] theorem State.popConsumer_draws : s.popConsumer.draws = s.draws := rfl
@[simp] theorem State.popConsumer_era : s.popConsumer.era = s.era := rfl
@[simp] theorem State.popConsumer_manager : s.popConsumer.manager = s.manager := rfl
@[simp] theorem State.popConsumer_producer : s.popConsumer.producer = s.producer := rfl
@[simp] theorem State.popConsumer_consumer : s.popConsumer.consumer = s.consumer.tail := rfl
@[simp] theorem State.popConsumer_sched : s.popConsumer.sched = s.sched := rfl
@[simp] theorem State.popConsumer_writer : s.popConsumer.writer = s.writer := rfl
@[simp] theorem State.popConsumer_writeResult : s.popConsumer.writeResult = s.writeResult := rfl
@[simp] theorem State.popConsumer_mgmtHold : s.popConsumer.mgmtHold = s.mgmtHold := rfl
@[simp] theorem State.popConsumer_qHold : s.popConsumer.qHold = s.qHold := rfl

@[simp] theorem State.popProducer_cfg : s.popProducer.cfg = s.cfg := by unfold State.popProducer; split <;> rfl
@[simp] theorem State.popProducer_allocated : s.popProducer.allocated = s.allocated := by unfold State.popProducer; split <;> rfl
@[simp] theorem State.popProducer_cap : s.popProducer.cap = s.cap := by unfold State.popProducer; split <;> rfl
@[simp] theorem State.popProducer_head : s.popProducer.head = s.head := by unfold State.popProducer; split <;> rfl
@[simp] theorem State.popProducer_tail : s.popProducer.tail = s.tail := by unfold State.popProducer; split <;> rfl
@[simp] theorem State.popProducer_mem : s.popProducer.mem = s.mem := by unfold State.popProducer; split <;> rfl
@[simp] theorem State.popProducer_rspM : s.popProducer.rspM = s.rspM := by unfold State.popProducer; split <;> rfl
@[simp] theorem State.popProducer_rspP : s.popProducer.rspP = s.rspP := by unfold State.popProducer; split <;> rfl
@[simp] theorem State.popProducer_rspQ : s.popProducer.rspQ = s.rspQ := by unfold State.popProducer; split <;> rfl
@[simp] theorem State.popProducer_tailSeenP : s.popProducer.tailSeenP = s.tailSeenP := by unfold State.popProducer; split <;> rfl
@[simp] theorem State.popProducer_headSeenQ : s.popProducer.headSeenQ = s.headSeenQ := by unfold State.popProducer; split <;> rfl
@[simp] theorem State.popProducer_faults : s.popProducer.faults = s.faults := by unfold State.popProducer; split <;> rfl
@[simp] theorem State.popProducer_draws : s.popProducer.draws = s.draws := by unfold State.popProducer; split <;> rfl
@[simp] theorem State.popProducer_era : s.popProducer.era = s.era := by unfold State.popProducer; split <;> rfl
@[simp] theorem State.popProducer_manager : s.popProducer.manager = s.manager := by unfold State.popProducer; split <;> rfl
@[simp] theorem State.popProducer_consumer : s.popProducer.consumer = s.consumer := by unfold State.popProducer; split <;> rfl
@[simp] theorem State.popProducer_sched : s.popProducer.sched = s.sched := by unfold State.popProducer; split <;> rfl
@[simp] theorem State.popProducer_writer : s.popProducer.writer = s.writer := by unfold State.popProducer; split <;> rfl
@[simp] theorem State.popProducer_writeResult : s.popProducer.writeResult = s.writeResult := by unfold State.popProducer; split <;> rfl
@[simp] theorem State.popProducer_mgmtHold : s.popProducer.mgmtHold = s.mgmtHold := by unfold State.popProducer; split <;> rfl
@[simp] theorem State.popProducer_qHold : s.popProducer.qHold = s.qHold := by unfold State.popProducer; split <;> rfl

@[simp] theorem State.popMove_cfg : s.popMove.cfg = s.cfg := rfl
@[simp] theorem State.popMove_allocated : s.popMove.allocated = s.allocated := rfl
@[simp] theorem State.popMove_cap : s.popMove.cap = s.cap := rfl
@[simp] theorem State.popMove_head : s.popMove.head = s.head := rfl
@[simp] theorem State.popMove_tail : s.popMove.tail = s.tail := rfl
@[simp] theorem State.popMove_mem : s.popMove.mem = s.mem := rfl
@[simp] theorem State.popMove_rspM : s.popMove.rspM = s.rspM := rfl
@[simp] theorem State.popMove_rspP : s.popMove.rspP = s.rspP := rfl
@[simp] theorem State.popMove_rspQ : s.popMove.rspQ = s.rspQ := rfl
@[simp] theorem State.popMove_tailSeenP : s.popMove.tailSeenP = s.tailSeenP := rfl
@[simp] theorem State.popMove_headSeenQ : s.popMove.headSeenQ = s.headSeenQ := rfl
@[simp] theorem State.popMove_faults : s.popMove.faults = s.faults := rfl
@[simp] theorem State.popMove_draws : s.popMove.draws = s.draws := rfl
@[simp] theorem State.popMove_era : s.popMove.era = s.era := rfl
@[simp] theorem State.popMove_manager : s.popMove.manager = s.manager := rfl
@[simp] theorem State.popMove_producer : s.popMove.producer = s.producer := rfl
@[simp] theorem State.popMove_consumer : s.popMove.consumer = s.consumer := rfl
@[simp] theorem State.popMove_sched : s.popMove.sched = s.sched.tail := rfl
@[simp] theorem State.popMove_writer : s.popMove.writer = s.writer := rfl
@[simp] theorem State.popMove_writeResult : s.popMove.writeResult = s.writeResult := rfl
@[simp] theorem State.popMove_mgmtHold : s.popMove.mgmtHold = s.mgmtHold := rfl
@[simp] theorem State.popMove_qHold : s.popMove.qHold = s.qHold := rfl

@[simp] theorem State.startQuiet_cfg (mgmt : Bool) : (s.startQuiet mgmt).cfg = s.cfg := rfl
@[simp] theorem State.startQuiet_allocated (mgmt : Bool) : (s.startQuiet mgmt).allocated = s.allocated := rfl
@[simp] theorem State.startQuiet_cap (mgmt : Bool) : (s.startQuiet mgmt).cap = s.cap := rfl
@[simp] theorem State.startQuiet_head (mgmt : Bool) : (s.startQuiet mgmt).head = s.head := rfl
@[simp] theorem State.startQuiet_tail (mgmt : Bool) : (s.startQuiet mgmt).tail = s.tail := rfl
@[simp] theorem State.startQuiet_mem (mgmt : Bool) : (s.startQuiet mgmt).mem = s.mem := rfl
@[simp] theorem State.startQuiet_rspM (mgmt : Bool) : (s.startQuiet mgmt).rspM = s.rspM := rfl
@[simp] theorem State.startQuiet_rspP (mgmt : Bool) : (s.startQuiet mgmt).rspP = s.rspP := rfl
@[simp] theorem State.startQuiet_rspQ (mgmt : Bool) : (s.startQuiet mgmt).rspQ = s.rspQ := rfl
@[simp] theorem State.startQuiet_tailSeenP (mgmt : Bool) : (s.startQuiet mgmt).tailSeenP = s.tailSeenP := rfl
@[simp] theorem State.startQuiet_headSeenQ (mgmt : Bool) : (s.startQuiet mgmt).headSeenQ = s.headSeenQ := rfl
@[simp] theorem State.startQuiet_faults (mgmt : Bool) : (s.startQuiet mgmt).faults = s.faults := rfl
@[simp] theorem State.startQuiet_draws (mgmt : Bool) : (s.startQuiet mgmt).draws = s.draws := rfl
@[simp] theorem State.startQuiet_era (mgmt : Bool) : (s.startQuiet mgmt).era = s.era := rfl
@[simp] theorem State.startQuiet_manager (mgmt : Bool) : (s.startQuiet mgmt).manager = s.manager := rfl
@[simp] theorem State.startQuiet_producer (mgmt : Bool) : (s.startQuiet mgmt).producer = s.producer := rfl
@[simp] theorem State.startQuiet_consumer (mgmt : Bool) : (s.startQuiet mgmt).consumer = s.consumer := rfl
@[simp] theorem State.startQuiet_sched (mgmt : Bool) : (s.startQuiet mgmt).sched = s.sched := rfl
@[simp] theorem State.startQuiet_writer (mgmt : Bool) : (s.startQuiet mgmt).writer = s.writer := rfl
@[simp] theorem State.startQuiet_writeResult (mgmt : Bool) : (s.startQuiet mgmt).writeResult = s.writeResult := rfl
@[simp] theorem State.startQuiet_mgmtHold (mgmt : Bool) : (s.startQuiet mgmt).mgmtHold = s.mgmtHold := rfl
@[simp] theorem State.startQuiet_qHold (mgmt : Bool) : (s.startQuiet mgmt).qHold = if mgmt then s.cfg.mgmtQuiet else s.qHold := rfl

@[simp] theorem State.countQuiet_cfg (idle : Bool) : (s.countQuiet idle).cfg = s.cfg := rfl
@[simp] theorem State.countQuiet_allocated (idle : Bool) : (s.countQuiet idle).allocated = s.allocated := rfl
@[simp] theorem State.countQuiet_cap (idle : Bool) : (s.countQuiet idle).cap = s.cap := rfl
@[simp] theorem State.countQuiet_head (idle : Bool) : (s.countQuiet idle).head = s.head := rfl
@[simp] theorem State.countQuiet_tail (idle : Bool) : (s.countQuiet idle).tail = s.tail := rfl
@[simp] theorem State.countQuiet_mem (idle : Bool) : (s.countQuiet idle).mem = s.mem := rfl
@[simp] theorem State.countQuiet_rspM (idle : Bool) : (s.countQuiet idle).rspM = s.rspM := rfl
@[simp] theorem State.countQuiet_rspP (idle : Bool) : (s.countQuiet idle).rspP = s.rspP := rfl
@[simp] theorem State.countQuiet_rspQ (idle : Bool) : (s.countQuiet idle).rspQ = s.rspQ := rfl
@[simp] theorem State.countQuiet_tailSeenP (idle : Bool) : (s.countQuiet idle).tailSeenP = s.tailSeenP := rfl
@[simp] theorem State.countQuiet_headSeenQ (idle : Bool) : (s.countQuiet idle).headSeenQ = s.headSeenQ := rfl
@[simp] theorem State.countQuiet_faults (idle : Bool) : (s.countQuiet idle).faults = s.faults := rfl
@[simp] theorem State.countQuiet_draws (idle : Bool) : (s.countQuiet idle).draws = s.draws := rfl
@[simp] theorem State.countQuiet_era (idle : Bool) : (s.countQuiet idle).era = s.era := rfl
@[simp] theorem State.countQuiet_manager (idle : Bool) : (s.countQuiet idle).manager = s.manager := rfl
@[simp] theorem State.countQuiet_producer (idle : Bool) : (s.countQuiet idle).producer = s.producer := rfl
@[simp] theorem State.countQuiet_consumer (idle : Bool) : (s.countQuiet idle).consumer = s.consumer := rfl
@[simp] theorem State.countQuiet_sched (idle : Bool) : (s.countQuiet idle).sched = s.sched := rfl
@[simp] theorem State.countQuiet_writer (idle : Bool) : (s.countQuiet idle).writer = s.writer := rfl
@[simp] theorem State.countQuiet_writeResult (idle : Bool) : (s.countQuiet idle).writeResult = s.writeResult := rfl
@[simp] theorem State.countQuiet_mgmtHold (idle : Bool) : (s.countQuiet idle).mgmtHold = if idle then s.mgmtHold - 1 else s.cfg.mgmtQuiet := rfl
@[simp] theorem State.countQuiet_qHold (idle : Bool) : (s.countQuiet idle).qHold = s.qHold - 1 := rfl

@[simp] theorem State.respond_cfg (x : Port) (st : Status) (v : Nat) : (s.respond x st v).cfg = s.cfg := by cases x <;> rfl
@[simp] theorem State.respond_allocated (x : Port) (st : Status) (v : Nat) : (s.respond x st v).allocated = s.allocated := by cases x <;> rfl
@[simp] theorem State.respond_cap (x : Port) (st : Status) (v : Nat) : (s.respond x st v).cap = s.cap := by cases x <;> rfl
@[simp] theorem State.respond_head (x : Port) (st : Status) (v : Nat) : (s.respond x st v).head = s.head := by cases x <;> rfl
@[simp] theorem State.respond_tail (x : Port) (st : Status) (v : Nat) : (s.respond x st v).tail = s.tail := by cases x <;> rfl
@[simp] theorem State.respond_mem (x : Port) (st : Status) (v : Nat) : (s.respond x st v).mem = s.mem := by cases x <;> rfl
@[simp] theorem State.respond_tailSeenP (x : Port) (st : Status) (v : Nat) : (s.respond x st v).tailSeenP = s.tailSeenP := by cases x <;> rfl
@[simp] theorem State.respond_headSeenQ (x : Port) (st : Status) (v : Nat) : (s.respond x st v).headSeenQ = s.headSeenQ := by cases x <;> rfl
@[simp] theorem State.respond_faults (x : Port) (st : Status) (v : Nat) : (s.respond x st v).faults = s.faults := by cases x <;> rfl
@[simp] theorem State.respond_draws (x : Port) (st : Status) (v : Nat) : (s.respond x st v).draws = s.draws := by cases x <;> rfl
@[simp] theorem State.respond_era (x : Port) (st : Status) (v : Nat) : (s.respond x st v).era = s.era := by cases x <;> rfl
@[simp] theorem State.respond_manager (x : Port) (st : Status) (v : Nat) : (s.respond x st v).manager = s.manager := by cases x <;> rfl
@[simp] theorem State.respond_producer (x : Port) (st : Status) (v : Nat) : (s.respond x st v).producer = s.producer := by cases x <;> rfl
@[simp] theorem State.respond_consumer (x : Port) (st : Status) (v : Nat) : (s.respond x st v).consumer = s.consumer := by cases x <;> rfl
@[simp] theorem State.respond_sched (x : Port) (st : Status) (v : Nat) : (s.respond x st v).sched = s.sched := by cases x <;> rfl
@[simp] theorem State.respond_writer (x : Port) (st : Status) (v : Nat) : (s.respond x st v).writer = s.writer := by cases x <;> rfl
@[simp] theorem State.respond_writeResult (x : Port) (st : Status) (v : Nat) : (s.respond x st v).writeResult = s.writeResult := by cases x <;> rfl
@[simp] theorem State.respond_mgmtHold (x : Port) (st : Status) (v : Nat) : (s.respond x st v).mgmtHold = s.mgmtHold := by cases x <;> rfl
@[simp] theorem State.respond_qHold (x : Port) (st : Status) (v : Nat) : (s.respond x st v).qHold = s.qHold := by cases x <;> rfl

theorem State.clearViews_tailSeenP :
    s.clearViews.tailSeenP = if s.cfg.variant = .sync then s.tailSeenP else 0#24 := by
  unfold State.clearViews; split <;> simp_all

theorem State.clearViews_headSeenQ :
    s.clearViews.headSeenQ = if s.cfg.variant = .sync then s.headSeenQ else 0#24 := by
  unfold State.clearViews; split <;> simp_all

@[simp] theorem State.respond_rsp_self (x : Port) (st : Status) (v : Nat) :
    (s.respond x st v).rsp x = response st v := by cases x <;> rfl

theorem State.respond_rsp_other {x y : Port} (h : y ≠ x) (st : Status) (v : Nat) :
    (s.respond x st v).rsp y = s.rsp y := by cases x <;> cases y <;> simp_all [State.respond, State.rsp]

@[simp] theorem State.respond_M_rspM (st : Status) (v : Nat) : (s.respond .M st v).rspM = response st v := rfl
@[simp] theorem State.respond_P_rspP (st : Status) (v : Nat) : (s.respond .P st v).rspP = response st v := rfl
@[simp] theorem State.respond_Q_rspQ (st : Status) (v : Nat) : (s.respond .Q st v).rspQ = response st v := rfl
@[simp] theorem State.respond_M_rspP (st : Status) (v : Nat) : (s.respond .M st v).rspP = s.rspP := rfl
@[simp] theorem State.respond_M_rspQ (st : Status) (v : Nat) : (s.respond .M st v).rspQ = s.rspQ := rfl
@[simp] theorem State.respond_P_rspM (st : Status) (v : Nat) : (s.respond .P st v).rspM = s.rspM := rfl
@[simp] theorem State.respond_P_rspQ (st : Status) (v : Nat) : (s.respond .P st v).rspQ = s.rspQ := rfl
@[simp] theorem State.respond_Q_rspM (st : Status) (v : Nat) : (s.respond .Q st v).rspM = s.rspM := rfl
@[simp] theorem State.respond_Q_rspP (st : Status) (v : Nat) : (s.respond .Q st v).rspP = s.rspP := rfl

@[simp] theorem State.outputs_mRsp : s.outputs.mRsp = s.rspM := rfl
@[simp] theorem State.outputs_pRsp : s.outputs.pRsp = s.rspP := rfl
@[simp] theorem State.outputs_qRsp : s.outputs.qRsp = s.rspQ := rfl
@[simp] theorem State.outputs_allocated : s.outputs.allocated = s.allocated := rfl
@[simp] theorem State.outputs_pFull : s.outputs.pFull = s.pFull := rfl
@[simp] theorem State.outputs_pEmpty : s.outputs.pEmpty = s.pEmpty := rfl
@[simp] theorem State.outputs_qFull : s.outputs.qFull = s.qFull := rfl
@[simp] theorem State.outputs_qEmpty : s.outputs.qEmpty = s.qEmpty := rfl

end Sys2Proof.Machine
end

