-- ==== Sys2Proof/Laws/Exec.lean ====
section
/-! SUPPORT. What one command can do, said once (`exec_effect`): every later claim about a next state cites it. -/

namespace Sys2Proof.Machine

/-- The next states a command has: its response alone, or one of five changes and its response. -/
inductive Effect (i : Instr) (s : State) : State → Prop
  /-- Only the response, and what a `WRITE` keeps. -/
  | answered (st : Status) (v : Nat) (hv : st = .ok ∨ v = 0) :
      Effect i s ((s.issue i).respond i.port st v)
  | created (c : Idx) (hi : i = .alloc c) (hs : s.allocated = false) (h0 : c ≠ 0#24)
      (hd : c.toNat ≤ s.cfg.memDepth) : Effect i s ((s.createBuffer c).respond .M .ok 0)
  | released (hi : i = .free) (hs : s.allocated = true) : Effect i s (s.releaseBuffer.respond .M .ok 0)
  | peekedOut (off : Idx) (hi : i = .peek off) (hs : s.allocated = true) (ho : s.levelQ ≤ off.toNat) :
      Effect i s (s.peekFault.respond .Q .ok (Config.peekByte s.draws).toNat)
  | consumed (k : Nat) (hi : i = .drain ∨ ∃ n, i = .consume n) (hs : s.allocated = true) (hk : k ≤ s.levelQ)
      (hw : k < 2 ^ 24) : Effect i s ((s.remove k).respond .Q .ok k)
  | pushed (b : Byte) (hi : i = .push b ∨ ∃ rest, i = .write (b :: rest)) (hs : s.allocated = true)
      (hr : s.roomP ≠ 0) (hd : s.head.toNat < s.cfg.memDepth) :
      Effect i s (((s.issue i).append b).respond .P .ok 1)

@[simp] theorem State.issue_levelQ (s : State) (i : Instr) : (s.issue i).levelQ = s.levelQ := by
  simp [State.levelQ, State.headViewQ]

@[simp] theorem State.issue_levelP (s : State) (i : Instr) : (s.issue i).levelP = s.levelP := by
  simp [State.levelP, State.tailViewP]

@[simp] theorem State.issue_roomP (s : State) (i : Instr) : (s.issue i).roomP = s.roomP := by
  simp [State.roomP]

/-- `PUSH` of one byte on a state that the agent may have touched. -/
theorem pushByte_effect {i : Instr} {b : Byte} {s t : State}
    (hi : i = .push b ∨ ∃ rest, i = .write (b :: rest)) (h : pushByte b (s.issue i) = .next t) :
    Effect i s t := by
  have hp : i.port = .P := by rcases hi with rfl | ⟨_, rfl⟩ <;> rfl
  simp only [pushByte, whenAllocated, withCell, raise, answer, State.issue_allocated,
    State.issue_roomP, State.issue_head, State.issue_cfg] at h
  split_ifs at h with ha hr hd
  · cases h; rw [← hp]; exact .answered .ok 0 (.inl rfl)
  · cases h; exact .pushed b hi ha hr hd
  · cases h; rw [← hp]; exact .answered .notAllocated 0 (.inr rfl)

theorem consumeBytes_effect {i : Instr} {n : Nat} {s t : State}
    (hi : i = .drain ∨ ∃ n, i = .consume n) (hn : n < 2 ^ 24) (h : consumeBytes n s = .next t) :
    Effect i s t := by
  have hp : i.port = .Q ∧ s.issue i = s := by rcases hi with rfl | ⟨_, rfl⟩ <;> exact ⟨rfl, rfl⟩
  simp only [consumeBytes, whenAllocated, raise, answer] at h
  split_ifs at h with ha
  · cases h; exact .consumed _ hi ha (Nat.min_le_right _ _) (by omega)
  · cases h
    have := Effect.answered (i := i) (s := s) .notAllocated 0 (.inr rfl)
    rwa [hp.1, hp.2] at this

/-- Every next state of a command is one of these. -/
theorem exec_effect {i : Instr} {s t : State} (h : exec i s = .next t) : Effect i s t := by
  have answered : ∀ (x : Port) (st : Status) (v : Nat), i.port = x → s.issue i = s →
      (st = .ok ∨ v = 0) → Effect i s (s.respond x st v) := by
    intro x st v hx hs hv
    have := Effect.answered (i := i) (s := s) st v hv
    rwa [hx, hs] at this
  cases i with
  | nop x => cases h; exact answered _ _ _ rfl rfl (.inl rfl)
  | alloc c =>
    simp only [exec, execAlloc, raise, answer] at h
    split_ifs at h with h0 ha hd
    · cases h; exact answered _ _ _ rfl rfl (.inr rfl)
    · cases h; exact answered _ _ _ rfl rfl (.inr rfl)
    · cases h; exact answered _ _ _ rfl rfl (.inr rfl)
    · cases h; exact .created c rfl (by simpa using ha) h0 (by omega)
  | free =>
    simp only [exec, execFree, whenAllocated, raise, answer] at h
    split_ifs at h with ha
    · cases h; exact .released rfl ha
    · cases h; exact answered _ _ _ rfl rfl (.inr rfl)
  | level x =>
    cases x <;> simp only [exec, execLevel, whenAllocated, raise, answer] at h
    · cases h; exact answered _ _ _ rfl rfl (.inr rfl)
    all_goals
      split_ifs at h with ha
      · cases h; exact answered _ _ _ rfl rfl (.inl rfl)
      · cases h; exact answered _ _ _ rfl rfl (.inr rfl)
  | room x =>
    cases x <;> simp only [exec, execRoom, whenAllocated, raise, answer] at h
    · cases h; exact answered _ _ _ rfl rfl (.inr rfl)
    all_goals
      split_ifs at h with ha
      · cases h; exact answered _ _ _ rfl rfl (.inl rfl)
      · cases h; exact answered _ _ _ rfl rfl (.inr rfl)
  | peek off =>
    simp only [exec, execPeek, whenAllocated, withCell, raise, answer] at h
    split_ifs at h with ha ho hd
    · cases h; exact answered _ _ _ rfl rfl (.inl rfl)
    · cases h; exact .peekedOut off rfl ha (by omega)
    · cases h; exact answered _ _ _ rfl rfl (.inr rfl)
  | consume n => exact consumeBytes_effect (.inr ⟨n, rfl⟩) n.isLt h
  | push b => exact pushByte_effect (.inl rfl) h
  | write data =>
    cases data with
    | nil => cases h; exact .answered .ok 0 (.inl rfl)
    | cons b rest => exact pushByte_effect (.inr ⟨rest, rfl⟩) h
  | drain => exact consumeBytes_effect (.inl rfl) (by decide) h

/-- A command is never refused. -/
theorem exec_ne_refused (i : Instr) (s : State) (r : Refusal) : exec i s ≠ .refused r := by
  cases i with
  | nop x => simp [exec, execNop, answer]
  | alloc c => simp only [exec, execAlloc, raise, answer]; split_ifs <;> simp
  | free => simp only [exec, execFree, whenAllocated, raise, answer]; split_ifs <;> simp
  | level x =>
    cases x <;> simp only [exec, execLevel, whenAllocated, raise, answer] <;> (try split_ifs) <;> simp
  | room x =>
    cases x <;> simp only [exec, execRoom, whenAllocated, raise, answer] <;> (try split_ifs) <;> simp
  | peek off =>
    simp only [exec, execPeek, whenAllocated, withCell, raise, answer]; split_ifs <;> simp
  | consume n => simp only [exec, execConsume, consumeBytes, whenAllocated, raise, answer]; split_ifs <;> simp
  | push b =>
    simp only [exec, execPush, pushByte, whenAllocated, withCell, raise, answer]; split_ifs <;> simp
  | write data =>
    cases data <;> simp only [exec, execWrite, pushByte, whenAllocated, withCell, raise, answer] <;>
      (try split_ifs) <;> simp
  | drain => simp only [exec, execDrain, consumeBytes, whenAllocated, raise, answer]; split_ifs <;> simp

/-- The responses of commands are legal words (30_encoding.md R51, R52). -/
theorem legalResponse_response {st : Status} {v : Nat} (h : st = .ok ∨ v = 0) :
    legalResponse (response st v) := by
  refine ⟨by simp, ?_, ?_⟩
  · cases st <;> simp [Status.code]
  · rcases h with rfl | rfl
    · simp [Status.code]
    · simp

end Sys2Proof.Machine
end

