-- ==== Sys2Proof/Laws/Memory.lean ====
section
/-! SUPPORT. Storage: read after write, read after the zero fill, and that every operation keeps the canonical form. -/

namespace Sys2Proof.Machine

theorem lookupCell_insert_self (a : Nat) (v : Byte) (l : List Host.Cell) :
    lookupCell a (insertCell a v l) = some v := by
  induction l with
  | nil => simp [insertCell, lookupCell]
  | cons e l ih =>
    obtain ⟨b, w⟩ := e
    simp only [insertCell]
    split_ifs with h1 h2
    · simp [lookupCell]
    · simp [lookupCell]
    · simp [lookupCell, Ne.symm h2, ih]

theorem lookupCell_insert_other {a a' : Nat} (h : a' ≠ a) (v : Byte) (l : List Host.Cell) :
    lookupCell a' (insertCell a v l) = lookupCell a' l := by
  induction l with
  | nil => simp [insertCell, lookupCell, Ne.symm h]
  | cons e l ih =>
    obtain ⟨b, w⟩ := e
    simp only [insertCell]
    split_ifs with h1 h2
    · simp [lookupCell, Ne.symm h]
    · subst h2; simp [lookupCell, Ne.symm h]
    · simp [lookupCell, ih]

theorem lookupCell_filter (p : Nat → Bool) (a : Nat) (l : List Host.Cell) :
    lookupCell a (l.filter fun e => p e.1) = if p a then lookupCell a l else none := by
  induction l with
  | nil => simp [lookupCell]
  | cons e l ih =>
    obtain ⟨b, w⟩ := e
    by_cases hb : b = a
    · subst hb
      by_cases hp : p b <;> simp [lookupCell, hp, ih]
    · by_cases hp : p b <;> simp [lookupCell, hp, ih, hb]

@[simp] theorem Memory.unlisted_write (m : Memory) (a : Nat) (v : Byte) (x : Nat) :
    (m.write a v).unlisted x = m.unlisted x := by
  unfold Memory.write; split_ifs <;> rfl

@[simp] theorem Memory.zeroed_write (m : Memory) (a : Nat) (v : Byte) :
    (m.write a v).zeroed = m.zeroed := by
  unfold Memory.write; split_ifs <;> rfl

/-- A cell reads as the byte last written to it. -/
@[simp] theorem Memory.get_write_self (m : Memory) (a : Nat) (v : Byte) :
    (m.write a v).get a = some v := by
  have hf := lookupCell_filter (fun x => decide (x ≠ a)) a m.cells
  simp only [ne_eq, not_true, decide_false, Bool.false_eq_true, if_false] at hf
  unfold Memory.get
  rw [Memory.unlisted_write]
  unfold Memory.write
  split_ifs with h
  · simp only [ne_eq, hf, h]
  · simp only [lookupCell_insert_self]

/-- A write leaves every other cell alone. -/
theorem Memory.get_write_other {m : Memory} {a x : Nat} (hx : x ≠ a) (v : Byte) :
    (m.write a v).get x = m.get x := by
  have hf := lookupCell_filter (fun x => decide (x ≠ a)) x m.cells
  simp only [ne_eq, hx, not_false_iff, decide_true, if_true] at hf
  unfold Memory.get
  rw [Memory.unlisted_write]
  unfold Memory.write
  split_ifs with h
  · simp only [ne_eq, hf]
  · simp only [lookupCell_insert_other hx]

/-- The zero fill clears the cells below its bound and leaves the others alone (40_lifecycle.md R63). -/
theorem Memory.get_zeroFill (m : Memory) (c a : Nat) :
    (m.zeroFill c).get a = if a < c then some 0#8 else m.get a := by
  have := lookupCell_filter (fun x => decide (c ≤ x)) a m.cells
  simp at this
  simp only [Memory.get, Memory.zeroFill, this, Memory.unlisted]
  by_cases h : a < c
  · simp [h, Nat.not_le.mpr h]
  · simp [h, Nat.not_lt.mp h]

@[simp] theorem Memory.get_blank (a : Nat) : Memory.blank.get a = none := by
  simp [Memory.blank, Memory.get, lookupCell, Memory.unlisted]

/-! ### The canonical form -/

theorem cellsRise_mono {l : List Host.Cell} {n m : Nat} (h : n ≤ m) (hm : cellsRise m l = true) :
    cellsRise n l = true := by
  cases l with
  | nil => rfl
  | cons e l => simp [cellsRise] at *; exact ⟨by omega, hm.2⟩

theorem cellsRise_insert {l : List Host.Cell} {n a : Nat} (v : Byte) (ha : n ≤ a)
    (h : cellsRise n l = true) : cellsRise n (insertCell a v l) = true := by
  induction l generalizing n with
  | nil => simp [insertCell, cellsRise, ha]
  | cons e l ih =>
    obtain ⟨b, w⟩ := e
    simp only [cellsRise, Bool.and_eq_true, decide_eq_true_eq] at h
    simp only [insertCell]
    split_ifs with h1 h2
    · simp [cellsRise, ha, h.2]; omega
    · subst h2; simp [cellsRise, h]
    · simp only [cellsRise, Bool.and_eq_true, decide_eq_true_eq]
      exact ⟨h.1, ih (by omega) h.2⟩

theorem cellsRise_filter {l : List Host.Cell} {n : Nat} (p : Host.Cell → Bool)
    (h : cellsRise n l = true) : cellsRise n (l.filter p) = true := by
  induction l generalizing n with
  | nil => rfl
  | cons e l ih =>
    obtain ⟨b, w⟩ := e
    simp only [cellsRise, Bool.and_eq_true, decide_eq_true_eq] at h
    rw [List.filter_cons]
    split_ifs
    · simp only [cellsRise, Bool.and_eq_true, decide_eq_true_eq]
      exact ⟨h.1, ih h.2⟩
    · exact ih (cellsRise_mono (by omega) h.2)

theorem mem_insertCell {e : Host.Cell} {a : Nat} {v : Byte} {l : List Host.Cell}
    (h : e ∈ insertCell a v l) : e = (a, v) ∨ e ∈ l := by
  induction l with
  | nil => simpa [insertCell] using h
  | cons x l ih =>
    obtain ⟨b, w⟩ := x
    simp only [insertCell] at h
    split_ifs at h with h1 h2
    · simpa using h
    · rcases List.mem_cons.mp h with h | h
      · exact .inl h
      · exact .inr (List.mem_cons_of_mem _ h)
    · rcases List.mem_cons.mp h with h | h
      · exact .inr (by simp [h])
      · rcases ih h with h | h
        · exact .inl h
        · exact .inr (List.mem_cons_of_mem _ h)

theorem Memory.wf_blank : Memory.blank.wf = true := by decide

theorem Memory.wf_write {m : Memory} (a : Nat) (v : Byte) (h : m.wf = true) :
    (m.write a v).wf = true := by
  simp only [Memory.wf, Bool.and_eq_true, List.all_eq_true, decide_eq_true_eq] at h ⊢
  simp only [Memory.unlisted_write]
  unfold Memory.write
  split_ifs with hv
  · exact ⟨cellsRise_filter _ h.1, fun e he => h.2 e (List.mem_filter.mp he).1⟩
  · refine ⟨cellsRise_insert v (Nat.zero_le a) h.1, fun e he => ?_⟩
    rcases mem_insertCell he with rfl | he
    · exact hv
    · exact h.2 e he

theorem Memory.wf_zeroFill {m : Memory} (c : Nat) (h : m.wf = true) :
    (m.zeroFill c).wf = true := by
  simp only [Memory.wf, Bool.and_eq_true, List.all_eq_true, decide_eq_true_eq] at h ⊢
  refine ⟨cellsRise_filter _ h.1, fun e he => ?_⟩
  obtain ⟨hm, hc⟩ := List.mem_filter.mp he
  have := h.2 e hm
  simp [Memory.zeroFill, Memory.unlisted] at *
  intro hlt
  exact this (by omega)

/-- The listed cells of a written memory: below the bound if the old ones and the written one are. -/
theorem Memory.cells_write_lt {m : Memory} {a n : Nat} {v : Byte} (ha : a < n)
    (h : ∀ e ∈ m.cells, e.1 < n) : ∀ e ∈ (m.write a v).cells, e.1 < n := by
  intro e he
  unfold Memory.write at he
  split_ifs at he
  · exact h e (List.mem_filter.mp he).1
  · rcases mem_insertCell he with rfl | he
    · exact ha
    · exact h e he

theorem Memory.cells_zeroFill_sub {m : Memory} {c : Nat} {e : Host.Cell}
    (he : e ∈ (m.zeroFill c).cells) : e ∈ m.cells := (List.mem_filter.mp he).1

theorem lookupCell_of_rise {l : List Host.Cell} {n a : Nat} (h : cellsRise n l = true) (ha : a < n) :
    lookupCell a l = none := by
  induction l generalizing n with
  | nil => rfl
  | cons e l ih =>
    obtain ⟨b, w⟩ := e
    simp only [cellsRise, Bool.and_eq_true, decide_eq_true_eq] at h
    simp only [lookupCell]
    rw [if_neg (by omega)]
    exact ih h.2 (by omega)

theorem cells_ext {l l' : List Host.Cell} {n : Nat} (h : cellsRise n l = true)
    (h' : cellsRise n l' = true) (he : ∀ a, lookupCell a l = lookupCell a l') : l = l' := by
  induction l generalizing n l' with
  | nil =>
    cases l' with
    | nil => rfl
    | cons e l' => obtain ⟨b, w⟩ := e; have := he b; simp [lookupCell] at this
  | cons e l ih =>
    obtain ⟨b, w⟩ := e
    cases l' with
    | nil => have := he b; simp [lookupCell] at this
    | cons e' l' =>
      obtain ⟨b', w'⟩ := e'
      simp only [cellsRise, Bool.and_eq_true, decide_eq_true_eq] at h h'
      have hb : b = b' := by
        rcases lt_trichotomy b b' with hlt | heq | hgt
        · have := he b
          simp only [lookupCell, if_true] at this
          rw [if_neg (by omega), lookupCell_of_rise h'.2 (by omega)] at this
          simp at this
        · exact heq
        · have := he b'
          simp only [lookupCell, if_true] at this
          rw [if_neg (by omega), lookupCell_of_rise h.2 (by omega)] at this
          simp at this
      subst hb
      have hw : w = w' := by simpa [lookupCell] using he b
      subst hw
      congr 1
      apply ih h.2 h'.2
      intro a
      by_cases ha : b = a
      · subst ha
        rw [lookupCell_of_rise h.2 (by omega), lookupCell_of_rise h'.2 (by omega)]
      · simpa [lookupCell, ha] using he a

/-- Equal memories are equal data: two canonical memories that have been filled to the same extent and read alike are
the same. -/
theorem Memory.ext_of_wf {m m' : Memory} (h : m.wf = true) (h' : m'.wf = true)
    (hz : m.zeroed = m'.zeroed) (hg : ∀ a, m.get a = m'.get a) : m = m' := by
  obtain ⟨l, z⟩ := m
  obtain ⟨l', z'⟩ := m'
  simp only at hz
  subst hz
  simp only [Memory.wf, Bool.and_eq_true, List.all_eq_true, decide_eq_true_eq] at h h'
  congr 1
  have hl : ∀ {k : List Host.Cell} {a : Nat} {v : Byte}, lookupCell a k = some v → (a, v) ∈ k := by
    intro k a v hk
    induction k with
    | nil => simp [lookupCell] at hk
    | cons e k ih =>
      obtain ⟨b, w⟩ := e
      simp only [lookupCell] at hk
      split_ifs at hk with hb
      · simp_all
      · exact List.mem_cons_of_mem _ (ih hk)
  refine cells_ext h.1 h'.1 fun a => ?_
  have ha := hg a
  simp only [Memory.get] at ha
  cases h1 : lookupCell a l <;> cases h2 : lookupCell a l' <;> simp only [h1, h2] at ha
  · rfl
  · exact absurd ha (h'.2 _ (hl h2))
  · exact absurd ha.symm (h.2 _ (hl h1))
  · exact ha

end Sys2Proof.Machine
end

