-- ==== Sys2Proof/Laws/PerInstr.lean ====
section
/-! SUPPORT. What a command expands to, constructor by constructor: for a well-formed command, well-formed commands of the
block on the same port, one for each of its words (30_encoding.md R49, R60, R61). -/

namespace Sys2Proof.Laws.ExpandsToCommands

/-- Every command expands to commands that are no pseudo-operations, one a word, well formed if it is. -/
def Statement (i : Instr) : Prop :=
  i.expand.length = (encode i).length ∧
    ∀ j ∈ i.expand, j.isPseudo = false ∧ j.port = i.port ∧ (i.wellFormed = true → j.wellFormed = true)

theorem nop (x : Port) : Statement (.nop x) := by simp [Statement, Instr.expand, encode, Instr.isPseudo]

theorem alloc (c : Idx) : Statement (.alloc c) := by simp [Statement, Instr.expand, encode, Instr.isPseudo]

theorem free : Statement .free := by simp [Statement, Instr.expand, encode, Instr.isPseudo]

theorem level (x : Port) : Statement (.level x) := by simp [Statement, Instr.expand, encode, Instr.isPseudo]

theorem room (x : Port) : Statement (.room x) := by simp [Statement, Instr.expand, encode, Instr.isPseudo]

theorem peek (off : Idx) : Statement (.peek off) := by simp [Statement, Instr.expand, encode, Instr.isPseudo]

theorem consume (n : Idx) : Statement (.consume n) := by simp [Statement, Instr.expand, encode, Instr.isPseudo]

theorem push (b : Byte) : Statement (.push b) := by simp [Statement, Instr.expand, encode, Instr.isPseudo]

theorem write (data : List Byte) : Statement (.write data) := by
  simp [Statement, Instr.expand, encode, Instr.isPseudo, Instr.port, Instr.wellFormed]

theorem drain : Statement .drain := by
  simp [Statement, Instr.expand, encode, Instr.isPseudo, Instr.port, Instr.wellFormed]

end Sys2Proof.Laws.ExpandsToCommands
end

