-- ==== Sys2Proof/Laws/Step.lean ====
section
/-! SUPPORT. What one step can do to the block, said once (`step_effect`). -/

namespace Sys2Proof.Machine

/-- Two states whose block agrees in everything but the responses and the model fault set. -/
structure SameBlock (a b : State) : Prop where
  cfg : a.cfg = b.cfg
  allocated : a.allocated = b.allocated
  cap : a.cap = b.cap
  head : a.head = b.head
  tail : a.tail = b.tail
  mem : a.mem = b.mem
  era : a.era = b.era
  tailSeenP : a.tailSeenP = b.tailSeenP
  headSeenQ : a.headSeenQ = b.headSeenQ

theorem SameBlock.refl (a : State) : SameBlock a a := ⟨rfl, rfl, rfl, rfl, rfl, rfl, rfl, rfl, rfl⟩

theorem SameBlock.symm {a b : State} (h : SameBlock a b) : SameBlock b a :=
  ⟨h.1.symm, h.2.symm, h.3.symm, h.4.symm, h.5.symm, h.6.symm, h.7.symm, h.8.symm, h.9.symm⟩

theorem SameBlock.trans {a b c : State} (h : SameBlock a b) (k : SameBlock b c) : SameBlock a c :=
  ⟨h.1.trans k.1, h.2.trans k.2, h.3.trans k.3, h.4.trans k.4, h.5.trans k.5, h.6.trans k.6,
    h.7.trans k.7, h.8.trans k.8, h.9.trans k.9⟩

section
variable {a b : State} (h : SameBlock a b)
include h

theorem SameBlock.levelP : a.levelP = b.levelP := by
  simp [State.levelP, State.tailViewP, h.cfg, h.cap, h.head, h.tail, h.tailSeenP]

theorem SameBlock.levelQ : a.levelQ = b.levelQ := by
  simp [State.levelQ, State.headViewQ, h.cfg, h.cap, h.head, h.tail, h.headSeenQ]

theorem SameBlock.roomP : a.roomP = b.roomP := by simp [State.roomP, h.cap, h.levelP]

theorem SameBlock.trueLevel : a.trueLevel = b.trueLevel := by
  simp [State.trueLevel, h.cap, h.head, h.tail]

theorem SameBlock.memRead (x : Nat) : a.memRead x = b.memRead x := by
  simp [State.memRead, h.mem, h.era]

theorem SameBlock.content : a.content = b.content := by
  simp [State.content, h.trueLevel, h.memRead, State.cellAt, h.cap, h.tail]

theorem SameBlock.append (v : Byte) : SameBlock (a.append v) (b.append v) := by
  constructor <;> simp [h.cfg, h.allocated, h.cap, h.head, h.tail, h.mem, h.era, h.tailSeenP, h.headSeenQ]

theorem SameBlock.remove (k : Nat) : SameBlock (a.remove k) (b.remove k) := by
  constructor <;> simp [h.cfg, h.allocated, h.cap, h.head, h.tail, h.mem, h.era, h.tailSeenP, h.headSeenQ]

theorem SameBlock.createBuffer (c : Idx) : SameBlock (a.createBuffer c) (b.createBuffer c) := by
  constructor <;>
    simp [h.cfg, h.mem, h.era, h.tailSeenP, h.headSeenQ, State.clearViews_tailSeenP,
      State.clearViews_headSeenQ]

theorem SameBlock.releaseBuffer : SameBlock a.releaseBuffer b.releaseBuffer := by
  constructor <;>
    simp [h.cfg, h.mem, h.era, h.tailSeenP, h.headSeenQ, State.clearViews_tailSeenP,
      State.clearViews_headSeenQ]

theorem SameBlock.resetRegisters : SameBlock a.resetRegisters b.resetRegisters := by
  constructor <;> simp [h.cfg, h.era]

theorem SameBlock.between (x y z : Idx) : a.between x y z = b.between x y z := by
  simp [State.between, h.allocated, h.cap]

end

theorem SameBlock.observeWrite (s : State) : SameBlock s.observeWrite s := by constructor <;> simp

theorem SameBlock.popMove (s : State) : SameBlock s.popMove s := by constructor <;> simp

theorem SameBlock.startQuiet (s : State) (b : Bool) : SameBlock (s.startQuiet b) s := by constructor <;> simp

theorem SameBlock.countQuiet (s : State) (b : Bool) : SameBlock (s.countQuiet b) s := by constructor <;> simp

theorem SameBlock.respond (s : State) (x : Port) (st : Status) (v : Nat) :
    SameBlock (s.respond x st v) s := by constructor <;> simp

theorem SameBlock.issue (s : State) (i : Instr) : SameBlock (s.issue i) s := by constructor <;> simp

theorem SameBlock.peekFault (s : State) : SameBlock s.peekFault s := by constructor <;> simp

theorem SameBlock.issueCommand (s : State) (d : Except Illegal Instr) :
    SameBlock (s.issueCommand d) s := by
  cases d
  · exact .refl _
  · exact .issue _ _

/-- With no `WRITE` in progress, or none whose response is outstanding, the producer has nothing to see. -/
theorem State.observeWrite_of_not_awaiting {s : State} (h : ∀ w, s.writer = some w → w.awaiting = false) :
    s.observeWrite = s := by
  cases hw : s.writer with
  | none => simp [State.observeWrite, hw]
  | some w => simp [State.observeWrite, hw, h w hw]

/-- A response the `WRITE` loop does not go on after ends it with the count so far (30_encoding.md R60). -/
theorem State.observeWrite_of_refused {s : State} {w : Writer} (hw : s.writer = some w) (ha : w.awaiting = true)
    (hr : stored s.rspP = false) : s.observeWrite = { s with writer := none, writeResult := some w.written } := by
  simp [State.observeWrite, hw, ha, hr]

/-- The last byte stored ends it (R60). -/
theorem State.observeWrite_of_last {s : State} {w : Writer} (hw : s.writer = some w) (ha : w.awaiting = true)
    (hr : stored s.rspP = true) (he : w.rest = []) :
    s.observeWrite = { s with writer := none, writeResult := some (w.written + 1) } := by
  simp [State.observeWrite, hw, ha, hr, he]

/-- A byte stored with more to come is counted (R60). -/
theorem State.observeWrite_of_stored {s : State} {w : Writer} (hw : s.writer = some w) (ha : w.awaiting = true)
    (hr : stored s.rspP = true) (he : w.rest ≠ []) :
    s.observeWrite =
      { s with writer := some { rest := w.rest, written := w.written + 1, awaiting := false } } := by
  obtain ⟨rest, n, a⟩ := w
  cases rest with
  | nil => exact absurd rfl he
  | cons b r => simp_all [State.observeWrite]

/-- What a step does to the block: one of these changes, a stored byte announced by `OK 1` on port P and `k` removed
bytes by `OK k` on port Q. -/
inductive StepEffect (s t : State) : Prop
  | same (h : SameBlock t s)
  | created (c : Idx) (hs : s.allocated = false) (h0 : c ≠ 0#24) (hd : c.toNat ≤ s.cfg.memDepth)
      (h : SameBlock t (s.createBuffer c))
  | released (hs : s.allocated = true) (h : SameBlock t s.releaseBuffer)
  | reset (h : SameBlock t s.resetRegisters)
  | consumed (k : Nat) (hs : s.allocated = true) (hk : k ≤ s.levelQ) (hw : k < 2 ^ 24)
      (hq : t.rspQ = response .ok k) (h : SameBlock t (s.remove k))
  | pushed (b : Byte) (hs : s.allocated = true) (hr : s.roomP ≠ 0) (hd : s.head.toNat < s.cfg.memDepth)
      (hp : t.rspP = response .ok 1) (h : SameBlock t (s.append b))
  | both (b : Byte) (k : Nat) (hs : s.allocated = true) (hr : s.roomP ≠ 0)
      (hd : s.head.toNat < s.cfg.memDepth) (hk : k ≤ s.levelQ) (hw : k < 2 ^ 24)
      (hp : t.rspP = response .ok 1) (hq : t.rspQ = response .ok k)
      (h : SameBlock t ((s.append b).remove k))
  | syncedT (v : Idx) (hv : s.cfg.variant = .cdc) (hb : s.between s.tailSeenP v s.tail = true)
      (h : SameBlock t { s with tailSeenP := v })
  | syncedH (v : Idx) (hv : s.cfg.variant = .cdc) (hb : s.between s.headSeenQ v s.head = true)
      (h : SameBlock t { s with headSeenQ := v })

/-- The effect of a step counts from any state with the same block. -/
theorem StepEffect.from {s s' t : State} (h : SameBlock s' s) (e : StepEffect s' t) : StepEffect s t := by
  cases e with
  | same k => exact .same (k.trans h)
  | created c hs h0 hd k =>
    exact .created c (by rw [← h.allocated, hs]) h0 (by rw [← h.cfg]; exact hd) (k.trans (h.createBuffer c))
  | released hs k => exact .released (by rw [← h.allocated, hs]) (k.trans h.releaseBuffer)
  | reset k => exact .reset (k.trans h.resetRegisters)
  | consumed k hs hk hw hq e =>
    exact .consumed k (by rw [← h.allocated, hs]) (by rw [← h.levelQ]; exact hk) hw hq (e.trans (h.remove k))
  | pushed b hs hr hd hp e =>
    exact .pushed b (by rw [← h.allocated, hs]) (by rw [← h.roomP]; exact hr)
      (by rw [← h.head, ← h.cfg]; exact hd) hp (e.trans (h.append b))
  | both b k hs hr hd hk hw hp hq e =>
    exact .both b k (by rw [← h.allocated, hs]) (by rw [← h.roomP]; exact hr)
      (by rw [← h.head, ← h.cfg]; exact hd) (by rw [← h.levelQ]; exact hk) hw hp hq
      (e.trans ((h.append b).remove k))
  | syncedT v hv hb e =>
    refine .syncedT v (by rw [← h.cfg, hv]) (by rw [← h.between, ← h.tailSeenP, ← h.tail, hb]) (e.trans ?_)
    constructor <;> simp [h.cfg, h.allocated, h.cap, h.head, h.tail, h.mem, h.era, h.headSeenQ]
  | syncedH v hv hb e =>
    refine .syncedH v (by rw [← h.cfg, hv]) (by rw [← h.between, ← h.headSeenQ, ← h.head, hb]) (e.trans ?_)
    constructor <;> simp [h.cfg, h.allocated, h.cap, h.head, h.tail, h.mem, h.era, h.tailSeenP]

/-- The effect of a step counts for any state with the same block and responses. -/
theorem StepEffect.onTo {s t t' : State} (e : StepEffect s t) (h : SameBlock t' t)
    (hp : t'.rspP = t.rspP) (hq : t'.rspQ = t.rspQ) : StepEffect s t' := by
  cases e with
  | same k => exact .same (h.trans k)
  | created c hs h0 hd k => exact .created c hs h0 hd (h.trans k)
  | released hs k => exact .released hs (h.trans k)
  | reset k => exact .reset (h.trans k)
  | consumed k hs hk hw e e' => exact .consumed k hs hk hw (hq.trans e) (h.trans e')
  | pushed b hs hr hd e e' => exact .pushed b hs hr hd (hp.trans e) (h.trans e')
  | both b k hs hr hd hk hw e e' e'' =>
    exact .both b k hs hr hd hk hw (hp.trans e) (hq.trans e') (h.trans e'')
  | syncedT v hv hb k => exact .syncedT v hv hb (h.trans k)
  | syncedH v hv hb k => exact .syncedH v hv hb (h.trans k)

/-- A management word decodes to `ALLOC` or `FREE` (44_cycle.md R80). -/
theorem isManagement_iff {d : Except Illegal Instr} :
    isManagement d = true ↔ ∃ i, d = .ok i ∧ (i = .free ∨ ∃ c, i = .alloc c) := by
  cases d with
  | error e => simp [isManagement]
  | ok i => cases i <;> simp [isManagement, Instr.isManagement]

/-- A word is idle on its port exactly if it is `NOP` there. -/
theorem isIdle_decode_iff {x : Port} {w : Word} : isIdle (decode x w) = true ↔ decode x w = .ok (.nop x) := by
  cases h : decode x w with
  | error e => simp [isIdle]
  | ok i =>
    have hx := decode_port h
    have hp := decode_isPseudo h
    cases i <;> simp_all [isIdle, Instr.isIdle, Instr.port, Instr.isPseudo]

/-- What one port of a cycle can do: answer alone, or what its command does. -/
theorem perform_effect {mgmt : Bool} {x : Port} {d : Except Illegal Instr} {s t : State}
    (hx : ∀ i, d = .ok i → i.port = x) (h : perform mgmt x d s = .next t) :
    (∃ st v, (st = .ok ∨ v = 0) ∧ t = (s.issueCommand d).respond x st v) ∨
      ∃ i, d = .ok i ∧ (mgmt && !i.isIdle) = false ∧ Effect i s t := by
  cases d with
  | error c => cases h; exact .inl ⟨.illegal, 0, .inr rfl, rfl⟩
  | ok i =>
    simp only [perform] at h
    split_ifs at h with hb
    · cases h; exact .inl ⟨.busy, 0, .inr rfl, rfl⟩
    · exact .inr ⟨i, rfl, by simpa using hb, exec_effect h⟩

/-- Port P: a response, and a byte stored only with `OK 1`. -/
theorem perform_P {mgmt : Bool} {d : Except Illegal Instr} {s t : State}
    (hx : ∀ i, d = .ok i → i.port = .P) (h : perform mgmt .P d s = .next t) :
    t.faults = s.faults ∧ t.draws = s.draws ∧ t.writer = (s.issueCommand d).writer ∧
      t.writeResult = (s.issueCommand d).writeResult ∧
      ((SameBlock t s ∧ legalResponse t.rspP) ∨
       (mgmt = false ∧ ∃ b, s.allocated = true ∧ s.roomP ≠ 0 ∧ s.head.toNat < s.cfg.memDepth ∧
        t.rspP = response .ok 1 ∧ SameBlock t (s.append b))) := by
  rcases perform_effect hx h with ⟨st, v, hv, rfl⟩ | ⟨i, rfl, hi, e⟩
  · refine ⟨?_, ?_, ?_, ?_, .inl ⟨(SameBlock.respond _ _ _ _).trans (.issueCommand _ _), ?_⟩⟩
    · cases d <;> simp [State.issueCommand]
    · cases d <;> simp [State.issueCommand]
    · simp
    · simp
    · simpa using legalResponse_response hv
  · have hp := hx i rfl
    cases e with
    | answered st v hv =>
      rw [hp]
      exact ⟨by simp, by simp, by simp [State.issueCommand], by simp [State.issueCommand],
        .inl ⟨(SameBlock.respond _ _ _ _).trans (.issue _ _), by simpa using legalResponse_response hv⟩⟩
    | created c hi' => subst hi'; cases hp
    | released hi' => subst hi'; cases hp
    | peekedOut off hi' => subst hi'; cases hp
    | consumed k hi' => rcases hi' with rfl | ⟨n, rfl⟩ <;> cases hp
    | pushed b hb hs hr hd =>
      refine ⟨by simp, by simp, by simp [State.issueCommand], by simp [State.issueCommand],
        .inr ⟨?_, b, hs, hr, hd, by simp, (SameBlock.respond _ _ _ _).trans ((SameBlock.issue s i).append b)⟩⟩
      rcases hb with rfl | ⟨rest, rfl⟩ <;> simpa [Instr.isIdle] using hi

/-- Port Q: a response, and `k` bytes removed only with `OK k`. -/
theorem perform_Q {mgmt : Bool} {d : Except Illegal Instr} {s t : State}
    (hx : ∀ i, d = .ok i → i.port = .Q) (h : perform mgmt .Q d s = .next t) :
    legalResponse t.rspQ ∧ (s.faults.peekOutOfRange = true → t.faults.peekOutOfRange = true) ∧
      (SameBlock t s ∨
       (mgmt = false ∧ ∃ k, s.allocated = true ∧ k ≤ s.levelQ ∧ k < 2 ^ 24 ∧
        t.rspQ = response .ok k ∧ SameBlock t (s.remove k))) := by
  rcases perform_effect hx h with ⟨st, v, hv, rfl⟩ | ⟨i, rfl, hi, e⟩
  · refine ⟨by simpa using legalResponse_response hv, ?_,
      .inl ((SameBlock.respond _ _ _ _).trans (.issueCommand _ _))⟩
    cases d <;> simp [State.issueCommand]
  · have hp := hx i rfl
    cases e with
    | answered st v hv =>
      rw [hp]
      exact ⟨by simpa using legalResponse_response hv, by simp,
        .inl ((SameBlock.respond _ _ _ _).trans (.issue _ _))⟩
    | created c hi' => subst hi'; cases hp
    | released hi' => subst hi'; cases hp
    | peekedOut off hi' =>
      exact ⟨by simpa using legalResponse_response (.inl rfl), by simp,
        .inl ((SameBlock.respond _ _ _ _).trans (.peekFault _))⟩
    | consumed k hi' hs hk hw =>
      refine ⟨by simpa using legalResponse_response (.inl rfl), by simp,
        .inr ⟨?_, k, hs, hk, hw, by simp, .respond _ _ _ _⟩⟩
      rcases hi' with rfl | ⟨n, rfl⟩ <;> simpa [Instr.isIdle] using hi
    | pushed b hb => rcases hb with rfl | ⟨rest, rfl⟩ <;> cases hp

/-- Port M: a response, and a buffer created or released only by a decoded `ALLOC` or `FREE`. -/
theorem perform_M {d : Except Illegal Instr} {s t : State}
    (hx : ∀ i, d = .ok i → i.port = .M) (h : perform false .M d s = .next t) :
    legalResponse t.rspM ∧ t.faults = s.faults ∧ t.draws = s.draws ∧
      (SameBlock t s ∨
       (isManagement d = true ∧
        ((∃ c, s.allocated = false ∧ c ≠ 0#24 ∧ c.toNat ≤ s.cfg.memDepth ∧
            SameBlock t (s.createBuffer c)) ∨
         (s.allocated = true ∧ SameBlock t s.releaseBuffer)))) := by
  rcases perform_effect hx h with ⟨st, v, hv, rfl⟩ | ⟨i, rfl, hi, e⟩
  · refine ⟨by simpa using legalResponse_response hv, ?_, ?_,
      .inl ((SameBlock.respond _ _ _ _).trans (.issueCommand _ _))⟩ <;>
      cases d <;> simp [State.issueCommand]
  · have hp := hx i rfl
    cases e with
    | answered st v hv =>
      rw [hp]
      exact ⟨by simpa using legalResponse_response hv, by simp, by simp,
        .inl ((SameBlock.respond _ _ _ _).trans (.issue _ _))⟩
    | created c hi' hs h0 hd =>
      subst hi'
      exact ⟨by simpa using legalResponse_response (.inl rfl), by simp, by simp,
        .inr ⟨rfl, .inl ⟨c, hs, h0, hd, .respond _ _ _ _⟩⟩⟩
    | released hi' hs =>
      subst hi'
      exact ⟨by simpa using legalResponse_response (.inl rfl), by simp, by simp,
        .inr ⟨rfl, .inr ⟨hs, .respond _ _ _ _⟩⟩⟩
    | peekedOut off hi' => subst hi'; cases hp
    | consumed k hi' => rcases hi' with rfl | ⟨n, rfl⟩ <;> cases hp
    | pushed b hb => rcases hb with rfl | ⟨rest, rfl⟩ <;> cases hp

theorem managerCommand_port {s : State} {i : Instr} (h : s.managerCommand = .ok i) : i.port = .M :=
  decode_port h

theorem consumerCommand_port {s : State} {i : Instr} (h : s.consumerCommand = .ok i) : i.port = .Q :=
  decode_port h

theorem producerCommand_port {s : State} {i : Instr} (h : s.producerCommand = .ok i) : i.port = .P := by
  unfold State.producerCommand at h
  split at h
  · cases h; rfl
  · exact decode_port h
  · exact decode_port h
  · cases h; rfl

/-- `andThen` answers a next state only through one. -/
theorem andThen_next {r : Result} {f : State → Result} {t : State} (h : andThen r f = .next t) :
    ∃ u, r = .next u ∧ f u = .next t := by
  cases r with
  | next u => exact ⟨u, rfl, h⟩
  | fault _ => cases h
  | refused _ => cases h

/-- The block and the responses after the commands of one cycle, port Q's command being absent (`sQ = s`) in `StepP`. -/
theorem merge_effect {mgmt : Bool} {s sM sP sQ : State}
    (hM : SameBlock sM s ∨ (mgmt = true ∧
        ((∃ c, s.allocated = false ∧ c ≠ 0#24 ∧ c.toNat ≤ s.cfg.memDepth ∧
            SameBlock sM (s.createBuffer c)) ∨
         (s.allocated = true ∧ SameBlock sM s.releaseBuffer))))
    (hP : SameBlock sP s ∨
       (mgmt = false ∧ ∃ b, s.allocated = true ∧ s.roomP ≠ 0 ∧ s.head.toNat < s.cfg.memDepth ∧
        sP.rspP = response .ok 1 ∧ SameBlock sP (s.append b)))
    (hQ : SameBlock sQ s ∨
       (mgmt = false ∧ ∃ k, s.allocated = true ∧ k ≤ s.levelQ ∧ k < 2 ^ 24 ∧
        sQ.rspQ = response .ok k ∧ SameBlock sQ (s.remove k))) :
    StepEffect s (merge mgmt s sM sP sQ) := by
  cases mgmt with
  | true =>
    have hm : SameBlock (merge true s sM sP sQ) sM := by constructor <;> simp [merge]
    rcases hM with hM | ⟨-, ⟨c, hs, h0, hd, hM⟩ | ⟨hs, hM⟩⟩
    · exact .same (hm.trans hM)
    · exact .created c hs h0 hd (hm.trans hM)
    · exact .released hs (hm.trans hM)
  | false =>
    rcases hP with hP | ⟨-, b, hs, hr, hd, hp, hP⟩ <;> rcases hQ with hQ | ⟨-, k, hs', hk, hw, hq, hQ⟩
    · exact .same (by constructor <;> simp [merge, hP.head, hP.mem, hQ.tail])
    · exact .consumed k hs' hk hw (by simp [merge, hq])
        (by constructor <;> simp [merge, hP.head, hP.mem, hQ.tail])
    · exact .pushed b hs hr hd (by simp [merge, hp])
        (by constructor <;> simp [merge, hP.head, hP.mem, hQ.tail])
    · exact .both b k hs hr hd hk hw (by simp [merge, hp]) (by simp [merge, hq])
        (by constructor <;> simp [merge, hP.head, hP.mem, hQ.tail])

/-- What every step does: to the block, to the responses, and to the model fault set, which only grows. -/
structure StepFacts (s t : State) : Prop where
  effect : StepEffect s t
  rspM : t.rspM = s.rspM ∨ legalResponse t.rspM
  rspP : t.rspP = s.rspP ∨ legalResponse t.rspP
  rspQ : t.rspQ = s.rspQ ∨ legalResponse t.rspQ
  faults : s.faults.peekOutOfRange = true → t.faults.peekOutOfRange = true

theorem legalResponse_zero : legalResponse 0#32 := by
  refine ⟨by decide, by decide, fun _ => by decide⟩

theorem perform_P_legal {mgmt : Bool} {d : Except Illegal Instr} {s t : State}
    (hx : ∀ i, d = .ok i → i.port = .P) (h : perform mgmt .P d s = .next t) : legalResponse t.rspP := by
  obtain ⟨-, -, -, -, ⟨-, hl⟩ | ⟨-, b, -, -, -, hp, -⟩⟩ := perform_P hx h
  · exact hl
  · rw [hp]; exact legalResponse_response (.inl rfl)

theorem syncCycle_facts {rst : Bool} {s t : State} (h : syncCycle rst s = .next t) : StepFacts s t := by
  have same : SameBlock s.observeWrite.popProducer.popManager.popConsumer s := by
    constructor <;> simp
  simp only [syncCycle] at h
  split_ifs at h with hr
  · cases h
    refine ⟨.from same (.reset ?_), .inr legalResponse_zero, .inr legalResponse_zero,
      .inr legalResponse_zero, ?_⟩
    · exact (SameBlock.issueCommand _ _).resetRegisters
    · intro hf
      cases s.observeWrite.producerCommand <;> simpa [State.issueCommand] using hf
  · obtain ⟨sM, hM, h⟩ := andThen_next h
    obtain ⟨sP, hP, h⟩ := andThen_next h
    obtain ⟨sQ, hQ, h⟩ := andThen_next h
    cases h
    have eM := perform_M (fun i hi => managerCommand_port hi) hM
    have eP := perform_P (fun i hi => producerCommand_port hi) hP
    have eQ := perform_Q (fun i hi => consumerCommand_port hi) hQ
    have hl := perform_P_legal (fun i hi => producerCommand_port hi) hP
    refine ⟨.from same (merge_effect eM.2.2.2 ?_ eQ.2.2), .inr eM.1,
      .inr (by simpa [merge] using hl), .inr eQ.1, ?_⟩
    · exact eP.2.2.2.2.imp And.left id
    · intro hf
      simp [merge, ModelFaults.union, hf]

theorem stepP_facts {s t : State} (h : stepP s = .next t) : StepFacts s t := by
  have same : SameBlock s.observeWrite.popProducer.popManager s := by constructor <;> simp
  simp only [stepP] at h
  split_ifs at h with hq
  obtain ⟨sM, hM, h⟩ := andThen_next h
  obtain ⟨sP, hP, h⟩ := andThen_next h
  cases h
  have eM := perform_M (fun i hi => managerCommand_port hi) hM
  have eP := perform_P (fun i hi => producerCommand_port hi) hP
  have hm := merge_effect (sQ := s.observeWrite.popProducer.popManager) eM.2.2.2
    (eP.2.2.2.2.imp And.left id) (.inl (.refl _))
  have hl := perform_P_legal (fun i hi => producerCommand_port hi) hP
  refine ⟨.from same (hm.onTo ?_ ?_ ?_), .inr eM.1, .inr (by simpa [merge] using hl),
    .inl (by simp [merge]), ?_⟩
  · exact .startQuiet _ _
  · simp
  · simp
  · intro hf
    simp [merge, ModelFaults.union, hf]

theorem stepQ_facts {s t : State} (h : stepQ s = .next t) : StepFacts s t := by
  have same : SameBlock s.popConsumer s := by constructor <;> simp
  simp only [stepQ] at h
  split_ifs at h with hq
  obtain ⟨sQ, hQ, h⟩ := andThen_next h
  cases h
  have eQ := perform_Q (fun i hi => consumerCommand_port hi) hQ
  have hm := merge_effect (mgmt := false) (.inl (.refl s.popConsumer)) (.inl (.refl _)) eQ.2.2
  refine ⟨.from same (hm.onTo ?_ ?_ ?_), .inl (by simp [merge]), .inl (by simp [merge]), .inr eQ.1, ?_⟩
  · exact .countQuiet _ _
  · simp
  · simp
  · intro hf
    simp [merge, ModelFaults.union, hf]

/-- Every step that answers a next state does one of the named things. -/
theorem step_facts {s t : State} (h : step s = .next t) : StepFacts s t := by
  have same := SameBlock.popMove s
  have lift : ∀ {u : State}, StepFacts s.popMove u → StepFacts s u := fun f =>
    ⟨.from same f.effect, by simpa using f.rspM, by simpa using f.rspP, by simpa using f.rspQ,
      by simpa using f.faults⟩
  apply lift
  unfold step runMove at h
  split at h
  · exact syncCycle_facts h
  all_goals first | cases h; done | skip
  · exact stepP_facts h
  · exact stepQ_facts h
  · simp only [syncTail] at h
    split_ifs at h with hb
    cases h
    exact ⟨.syncedT _ (by assumption) hb (.refl _), .inl rfl, .inl rfl, .inl rfl, id⟩
  · simp only [syncHead] at h
    split_ifs at h with hb
    cases h
    exact ⟨.syncedH _ (by assumption) hb (.refl _), .inl rfl, .inl rfl, .inl rfl, id⟩
  · cases h
    exact ⟨.reset (SameBlock.observeWrite _).resetRegisters, .inr legalResponse_zero, .inr legalResponse_zero,
      .inr legalResponse_zero, by simp⟩

end Sys2Proof.Machine
end

