-- ==== Sys2Proof/Laws/Queue.lean ====
section
/-! SUPPORT. The levels in the conditional form, and what storing and removing bytes does to the queue. -/

namespace Sys2Proof.Machine

theorem lvl_eq_ringDistance {c h t : Nat} (hh : h < c) (ht : t < c) : lvl c h t = ringDistance c h t :=
  lvl_eq hh ht

section
variable {s : State} (inv : s.Inv) (ha : s.allocated = true)
include inv ha

theorem State.Inv.cap_pos : 0 < s.cap.toNat := (inv.live ha).1

theorem State.Inv.head_lt : s.head.toNat < s.cap.toNat := (inv.live ha).2.2.1

theorem State.Inv.tail_lt : s.tail.toNat < s.cap.toNat := (inv.live ha).2.2.2

theorem State.Inv.tailView_lt : s.tailViewP.toNat < s.cap.toNat := by
  unfold State.tailViewP
  split
  · exact inv.tail_lt ha
  · exact (inv.views ha (by assumption)).1

theorem State.Inv.headView_lt : s.headViewQ.toNat < s.cap.toNat := by
  unfold State.headViewQ
  split
  · exact inv.head_lt ha
  · exact (inv.views ha (by assumption)).2.1

theorem State.Inv.levelP_eq : s.levelP = s.seenByP := by
  rw [State.levelP, lvl_eq_ringDistance (inv.head_lt ha) (inv.tailView_lt ha), State.seenByP]
  congr 1
  unfold State.tailViewP
  split <;> simp_all

theorem State.Inv.levelQ_eq : s.levelQ = s.seenByQ := by
  rw [State.levelQ, lvl_eq_ringDistance (inv.headView_lt ha) (inv.tail_lt ha), State.seenByQ]
  congr 1
  unfold State.headViewQ
  split <;> simp_all

theorem State.Inv.levelP_lt : s.levelP < s.cap.toNat := lvl_lt (inv.cap_pos ha) _ _

theorem State.Inv.levelQ_lt : s.levelQ < s.cap.toNat := lvl_lt (inv.cap_pos ha) _ _

theorem State.Inv.trueLevel_lt : s.trueLevel < s.cap.toNat := lvl_lt (inv.cap_pos ha) _ _

/-- The memory cells of the buffer exist (20_memory.md R34). -/
theorem State.Inv.cell_lt {a : Nat} (h : a < s.cap.toNat) : a < s.cfg.memDepth :=
  lt_of_lt_of_le h (inv.live ha).2.1

/-- Port Q never sees more than is there, port P never less (45_cdc_variant.md R93). -/
theorem State.Inv.views_bound : s.levelQ ≤ s.trueLevel ∧ s.trueLevel ≤ s.levelP := by
  have hh := inv.head_lt ha
  have ht := inv.tail_lt ha
  unfold State.levelQ State.levelP State.trueLevel State.headViewQ State.tailViewP
  cases hv : s.cfg.variant with
  | sync => simp
  | cdc =>
    obtain ⟨h1, h2, h3, h4⟩ := inv.views ha hv
    simp only [onPath, decide_eq_true_eq] at h3 h4
    simp only
    refine ⟨h4, ?_⟩
    rw [lvl_eq ht h1, lvl_eq hh h1] at h3
    rw [lvl_eq hh ht, lvl_eq hh h1]
    split_ifs at * <;> omega

end

@[simp] theorem State.content_length (s : State) : s.content.length = s.trueLevel := by
  simp [State.content]

/-- The byte at a position of the queue is the byte in that cell of the ring. -/
theorem State.content_getElem {s : State} {i : Nat} (h : i < s.trueLevel) :
    s.content[i]? = some (s.memRead (s.cellAt i)) := by
  simp [State.content, h]

theorem State.memRead_append_self (s : State) (b : Byte) :
    (s.append b).memRead s.head.toNat = b := by simp [State.memRead]

theorem State.memRead_append_other {s : State} {a : Nat} (h : a ≠ s.head.toNat) (b : Byte) :
    (s.append b).memRead a = s.memRead a := by simp [State.memRead, Memory.get_write_other h]

/-- Storing a byte appends it to the queue (10_state.md R27). -/
theorem State.content_append {s : State} (hh : s.head.toNat < s.cap.toNat)
    (ht : s.tail.toNat < s.cap.toNat) (hr : s.trueLevel < s.cap.toNat - 1) (b : Byte) :
    (s.append b).content = s.content ++ [b] := by
  have hl : (s.append b).trueLevel = s.trueLevel + 1 := by
    simp only [State.trueLevel, State.append_cap, State.append_head, State.append_tail]
    rw [pointer_inc_toNat _ _ _ (by omega)]
    exact lvl_inc_head hh ht hr
  have hc : ∀ i, (s.append b).cellAt i = s.cellAt i := fun i => by simp [State.cellAt]
  have hlast : s.cellAt s.trueLevel = s.head.toNat := inc_lvl hh ht
  rw [State.content, hl, List.range_succ, List.map_append]
  congr 1
  · apply List.map_congr_left
    intro i hi
    rw [hc]
    apply State.memRead_append_other
    intro he
    have := inc_inj ht (m := i) (n := s.trueLevel) (by simp at hi; omega) (by omega)
      (he.trans hlast.symm)
    simp at hi
    omega
  · simp [hc, hlast, State.memRead_append_self]

/-- Removing `k` bytes drops the `k` oldest (R27). -/
theorem State.content_remove {s : State} (hh : s.head.toNat < s.cap.toNat)
    (ht : s.tail.toNat < s.cap.toNat) {k : Nat} (hk : k ≤ s.trueLevel) :
    (s.remove k).content = s.content.drop k := by
  have hl : (s.remove k).trueLevel = s.trueLevel - k := by
    simp only [State.trueLevel, State.remove_cap, State.remove_head, State.remove_tail]
    rw [pointer_inc_toNat _ _ _ (by omega)]
    exact lvl_inc_tail hh ht hk
  apply List.ext_getElem?
  intro i
  rw [List.getElem?_drop]
  by_cases hi : i < s.trueLevel - k
  · rw [State.content_getElem (by omega), State.content_getElem (by omega)]
    have : (s.remove k).cellAt i = s.cellAt (k + i) := by
      simp only [State.cellAt, State.remove_cap, State.remove_tail]
      rw [pointer_inc_toNat _ _ _ (by omega), inc_inc]
    rw [this]
    simp [State.memRead]
  · rw [List.getElem?_eq_none (by simp; omega), List.getElem?_eq_none (by simp; omega)]

end Sys2Proof.Machine
end

