-- ==== Sys2Proof/Tests/Slice0.lean ====
section
/-! SUPPORT. Tests with the expected results of spec/95_test_vectors.md, and a witness for the hypotheses of every
obligation that has some. -/

open Sys2Proof Sys2Proof.Machine

namespace Sys2Proof.Tests

/-! ### Helpers -/

/-- The result is a next state that passes. -/
def answers (r : Result) (p : State → Bool) : Bool :=
  match r with
  | .next t => p t
  | .fault _ => false
  | .refused _ => false

theorem answers_next {r : Result} {p : State → Bool} (h : answers r p = true) : ∃ t, r = .next t ∧ p t = true := by
  cases r with
  | next t => exact ⟨t, rfl, h⟩
  | fault _ => cases h
  | refused _ => cases h

/-- The result is this fault. -/
def stops (r : Result) (f : Fault) : Bool :=
  match r with
  | .next _ => false
  | .fault g => decide (g = f)
  | .refused _ => false

theorem stops_fault {r : Result} {f : Fault} (h : stops r f = true) : r = .fault f := by
  cases r with
  | next _ => cases h
  | fault g => exact congrArg _ (of_decide_eq_true h)
  | refused _ => cases h

/-- A `SYNC` block with `MEM_DEPTH` 16 and a buffer: `CAP`, `HEAD`, `TAIL`, and the cells that are not 0. -/
def block (c h t : Idx) (cells : List Host.Cell) : State :=
  { State.reset with
    allocated := true
    cap := c
    head := h
    tail := t
    mem := { cells := cells, zeroed := c.toNat } }

/-- A `CDC` block with a buffer: also `TAIL_SEEN_P` and `HEAD_SEEN_Q`. -/
def cdcBlock (c h t ts hs : Idx) (cells : List Host.Cell) : State :=
  { block c h t cells with
    cfg := { Params.standard with variant := .cdc }
    tailSeenP := ts
    headSeenQ := hs }

/-- What the agents will present. -/
def offer (s : State) (m : List Word) (p : List ProducerAct) (q : List Word) : State :=
  { s with manager := m, producer := p, consumer := q }

/-- The next step. -/
def next (s : State) (m : Move) : State := { s with sched := [m] }

/-- The invariant is one of the block, not of its agents. -/
theorem inv_offer {s : State} (h : s.Inv) (m : List Word) (p : List ProducerAct) (q : List Word) :
    (offer s m p q).Inv :=
  ⟨h.params, h.memory, h.extent, h.live, h.idle, h.filled, h.views, h.noViews, h.rspM, h.rspP, h.rspQ⟩

theorem inv_next {s : State} (h : s.Inv) (m : Move) : (next s m).Inv :=
  ⟨h.params, h.memory, h.extent, h.live, h.idle, h.filled, h.views, h.noViews, h.rspM, h.rspP, h.rspQ⟩

/-- 95_test_vectors.md §2.4: capacity 8, level 4 around the end of the ring. -/
def four : State := block 8#24 2#24 6#24 [(0, 0x10#8), (1, 0x11#8), (6, 0x16#8), (7, 0x17#8)]

/-- Capacity 8, full. -/
def full : State := block 8#24 7#24 0#24 []

/-- Capacity 8, empty. -/
def empty : State := block 8#24 5#24 5#24 []

/-- Capacity 1. -/
def one : State := block 1#24 0#24 0#24 []

/-- 95_test_vectors.md §2.7. -/
def views : State := cdcBlock 8#24 5#24 3#24 1#24 4#24 []

/-- A `CDC` block after reset. -/
def cdcReset : State := State.resetWith { Params.standard with variant := .cdc }

theorem reset_inv : State.reset.Inv := by
  constructor <;>
    first | decide | (simp only [State.liveBounds, State.allZero, State.viewsOrdered, legalResponse]; decide)

theorem four_inv : four.Inv := by
  constructor <;>
    first | decide | (simp only [State.liveBounds, State.allZero, State.viewsOrdered, legalResponse]; decide)

theorem full_inv : full.Inv := by
  constructor <;>
    first | decide | (simp only [State.liveBounds, State.allZero, State.viewsOrdered, legalResponse]; decide)

theorem empty_inv : empty.Inv := by
  constructor <;>
    first | decide | (simp only [State.liveBounds, State.allZero, State.viewsOrdered, legalResponse]; decide)

theorem one_inv : one.Inv := by
  constructor <;>
    first | decide | (simp only [State.liveBounds, State.allZero, State.viewsOrdered, legalResponse]; decide)

theorem views_inv : views.Inv := by
  constructor <;>
    first | decide | (simp only [State.liveBounds, State.allZero, State.viewsOrdered, legalResponse]; decide)

theorem cdcReset_inv : cdcReset.Inv := by
  constructor <;>
    first | decide | (simp only [State.liveBounds, State.allZero, State.viewsOrdered, legalResponse]; decide)

/-! ### Well-formedness (one ill-formed term for each check) -/

theorem test_wellFormed_level_M : (Instr.level .M).wellFormed = false := by decide
theorem test_wellFormed_room_M : (Instr.room .M).wellFormed = false := by decide
theorem test_params_no_cells : ({ Params.standard with memDepth := 0 } : Params).wellFormed = false := by decide
theorem test_params_too_deep :
    ({ Params.standard with memDepth := 0x1000000 } : Params).wellFormed = false := by decide
theorem test_params_no_stage : ({ Params.standard with syncStages := 0 } : Params).wellFormed = false := by decide
theorem test_params_largest :
    ({ Params.standard with memDepth := 0xFFFFFF } : Params).wellFormed = true := by decide

/-! ### Decode: the table of 95_test_vectors.md §2.1, ports M, P, Q -/

/-- What the three ports read from a word. -/
def reads (w : Word) : List (Option Instr) := [Port.M, .P, .Q].map fun x => (decode x w).toOption

theorem test_decode_nop : reads 0b00000000000000000000000000000000#32 = [some (.nop .M), some (.nop .P), some (.nop .Q)] := by decide
theorem test_decode_alloc : reads 0b00010000000000000000000000001000#32 = [some (.alloc 8#24), none, none] := by decide
theorem test_decode_alloc_0 : reads 0x10000000#32 = [some (.alloc 0#24), none, none] := by decide
theorem test_decode_alloc_max : reads 0x10FFFFFF#32 = [some (.alloc 0xFFFFFF#24), none, none] := by decide
theorem test_decode_free : reads 0b00100000000000000000000000000000#32 = [some .free, none, none] := by decide
theorem test_decode_level : reads 0b00110000000000000000000000000000#32 = [none, some (.level .P), some (.level .Q)] := by decide
theorem test_decode_room : reads 0b01000000000000000000000000000000#32 = [none, some (.room .P), some (.room .Q)] := by decide
theorem test_decode_peek : reads 0b01010000000000000000000000000000#32 = [none, none, some (.peek 0#24)] := by decide
theorem test_decode_peek_max : reads 0x50FFFFFF#32 = [none, none, some (.peek 0xFFFFFF#24)] := by decide
theorem test_decode_consume : reads 0b01100000000000000000000000000000#32 = [none, none, some (.consume 0#24)] := by decide
theorem test_decode_drain_word : reads 0b01100000111111111111111111111111#32 = [none, none, some (.consume 0xFFFFFF#24)] := by decide
theorem test_decode_push : reads 0b01110000000000000000000011111111#32 = [none, some (.push 0xFF#8), none] := by decide
theorem test_decode_illegal :
    [0x00000001#32, 0x01000000#32, 0x20000001#32, 0x30000010#32, 0x70000100#32, 0x7F000041#32, 0x80000000#32,
      0xF0000000#32, 0xFFFFFFFF#32].all (fun w => reads w == [none, none, none]) = true := by decide
theorem test_encode_write :
    encode (.write [0x01#8, 0x02#8]) = [0x70000001#32, 0x70000002#32] := by decide
theorem test_encode_drain : encode .drain = [0x60FFFFFF#32] := by decide
theorem test_asm_consume : (Instr.consume 3#24).asm = "CONSUME 3" := by decide

/-! ### Commands: 95_test_vectors.md §2.2 to §2.5 -/

theorem test_nop :
    answers (exec (.nop .P) { full with rspP := 1#32 }) (fun t => t = full) = true := by decide

theorem test_alloc_refused :
    [(State.reset, 0#24, 0x40000000#32), (State.reset, 17#24, 0x30000000#32), (four, 4#24, 0x30000000#32),
      (four, 0#24, 0x40000000#32)].all (fun (s, c, r) =>
        answers (exec (.alloc c) s) fun t => t = { s with rspM := r }) = true := by decide

theorem test_alloc_16 :
    answers (exec (.alloc 16#24) State.reset) (fun t =>
      t.rspM = 0#32 ∧ t.allocated ∧ t.cap = 16#24 ∧ t.head = 0#24 ∧ t.tail = 0#24 ∧
        ∀ a ∈ List.range 16, t.mem.get a = some 0#8) = true := by decide

theorem test_free :
    answers (exec .free (block 4#24 3#24 1#24 [(1, 7#8)])) (fun t =>
      t.rspM = 0#32 ∧ ¬ t.allocated ∧ t.cap = 0#24 ∧ t.head = 0#24 ∧ t.tail = 0#24) = true := by decide

theorem test_free_nothing :
    answers (exec .free State.reset) (fun t => t = { State.reset with rspM := 0x20000000#32 }) = true := by decide

/-- 95_test_vectors.md §2.3: `CAP`, `HEAD`, `TAIL`, level, room, empty, full. -/
def queryTable : List (Idx × Idx × Idx × Word × Word × Bool × Bool) :=
  [(8#24, 0#24, 0#24, 0#32, 7#32, true, false), (8#24, 7#24, 0#24, 7#32, 0#32, false, true),
    (8#24, 2#24, 3#24, 7#32, 0#32, false, true), (8#24, 3#24, 2#24, 1#32, 6#32, false, false)] ++
  [(8#24, 0#24, 7#24, 1#32, 6#32, false, false), (8#24, 5#24, 1#24, 4#32, 3#32, false, false),
    (8#24, 1#24, 5#24, 4#32, 3#32, false, false), (2#24, 1#24, 0#24, 1#32, 0#32, false, true),
    (2#24, 0#24, 1#24, 1#32, 0#32, false, true), (1#24, 0#24, 0#24, 0#32, 0#32, true, true)]

theorem test_level : queryTable.all (fun (c, h, t, l, _, _, _) =>
    answers (exec (.level .P) (block c h t [])) (fun u => u.rspP = l) &&
      answers (exec (.level .Q) (block c h t [])) (fun u => u.rspQ = l)) = true := by decide

theorem test_room : queryTable.all (fun (c, h, t, _, r, _, _) =>
    answers (exec (.room .P) (block c h t [])) (fun u => u.rspP = r) &&
      answers (exec (.room .Q) (block c h t [])) (fun u => u.rspQ = r)) = true := by decide

theorem test_comparators : queryTable.all (fun (c, h, t, _, _, e, f) =>
    let s := block c h t []
    s.pEmpty == e && s.qEmpty == e && s.pFull == f && s.qFull == f) = true := by decide

theorem test_queries_nothing :
    answers (exec (.level .P) State.reset) (fun t => t.rspP = 0x20000000#32) &&
      answers (exec (.room .Q) State.reset) (fun t => t.rspQ = 0x20000000#32) = true := by decide

theorem test_peek :
    [(0#24, 0x16#32), (1#24, 0x17#32), (2#24, 0x10#32), (3#24, 0x11#32)].all (fun (off, r) =>
      answers (exec (.peek off) four) fun t => t = { four with rspQ := r }) = true := by decide

theorem test_peek_out_of_range :
    [4#24, 8#24].all (fun off =>
      answers (exec (.peek off) four) fun t =>
        t.faults.peekOutOfRange && t.tail = 6#24 && !four.faults.peekOutOfRange) = true := by decide

theorem test_consume :
    [(0#24, 0#32, 6#24), (1#24, 1#32, 7#24), (3#24, 3#32, 1#24), (4#24, 4#32, 2#24), (5#24, 4#32, 2#24)].all
      (fun (n, r, e) => answers (exec (.consume n) four) fun t => t = { four with rspQ := r, tail := e }) =
      true := by decide

theorem test_consume_empty :
    answers (exec (.consume 3#24) empty) (fun t => t.rspQ = 0#32 ∧ t.tail = 5#24) &&
      answers (exec (.consume 1#24) State.reset) (fun t => t.rspQ = 0x20000000#32) = true := by decide

theorem test_drain :
    answers (exec .drain four) (fun t => t = { four with rspQ := 4#32, tail := 2#24 }) = true := by decide

/-- `CAP`, `HEAD`, `TAIL`, byte, end `HEAD`, the cell written. -/
theorem test_push :
    [(8#24, 0#24, 0#24, 0x41#8, 1#24, 0), (8#24, 7#24, 3#24, 0x42#8, 0#24, 7), (2#24, 0#24, 0#24, 0x46#8, 1#24, 0)].all
      (fun (c, h, t, b, h', a) => answers (exec (.push b) (block c h t [])) fun u =>
        u.rspP = 1#32 && u.head = h' && u.tail = t && u.mem.get a = some b) = true := by decide

theorem test_push_full :
    [(8#24, 2#24, 3#24, 0x43#8), (8#24, 7#24, 0#24, 0x44#8), (1#24, 0#24, 0#24, 0x45#8)].all
      (fun (c, h, t, b) => answers (exec (.push b) (block c h t [])) fun u => u = block c h t []) = true := by
  decide

/-- The first byte of `WRITE [1,2,3]` at level 0, and the first of `WRITE [1]` at level 7. -/
theorem test_write :
    answers (exec (.write [1#8, 2#8, 3#8]) (block 8#24 0#24 0#24 [])) (fun t =>
      t.rspP = 1#32 ∧ t.mem.get 0 = some 1#8 ∧ t.head = 1#24 ∧
        t.writer = some { rest := [2#8, 3#8], written := 0, awaiting := true }) &&
      answers (exec (.write [1#8]) full) (fun t => t.rspP = 0#32 ∧ t.mem = full.mem) = true := by decide

/-- The cycle after: `OK 1` is counted and the next byte goes out; `OK 0` ends the `WRITE`; in `CDC` the producer sees the
last response in the reset step too. -/
theorem test_write_goes_on :
    let s : State :=
      { block 8#24 1#24 0#24 [(0, 1#8)] with writer := some { rest := [2#8], written := 2, awaiting := true } }
    answers (step { s with rspP := 1#32 }) (fun t =>
      t.mem.get 1 = some 2#8 ∧ t.writer = some { rest := [], written := 3, awaiting := true }) &&
      answers (step { s with rspP := 0#32 }) (fun t =>
        t.head = 1#24 ∧ t.writer = none ∧ t.writeResult = some 2) &&
      [([], none, some 1), ([2#8], some { rest := [2#8], written := 1, awaiting := false }, none)].all
        (fun (rest, w, r) =>
          answers (step { next views .rstBoth with
              rspP := 1#32, writer := some { rest := rest, written := 0, awaiting := true } })
            fun t => t.rspP = 0#32 && t.writer == w && t.writeResult == r) = true := by decide

/-! ### Steps: 95_test_vectors.md §2.6, §2.7 -/

/-- Start, the three words, responses of P and Q, end `HEAD`, `TAIL`. -/
theorem test_cycle :
    [(block 4#24 0#24 0#24 [], 0x70000005#32, 0x60000001#32, 1#32, 0#32, 1#24, 0#24),
      (block 4#24 3#24 0#24 [], 0x70000005#32, 0x60000001#32, 0#32, 1#32, 3#24, 1#24),
      (block 4#24 2#24 0#24 [(1, 9#8)], 0x70000005#32, 0x50000001#32, 1#32, 9#32, 3#24, 0#24),
      (block 4#24 2#24 0#24 [], 0x30000000#32, 0x60000002#32, 2#32, 2#32, 2#24, 2#24)].all
      (fun (s, p, q, rp, rq, h, t) => answers (step (offer s [] [.word p] [q])) fun u =>
        u.rspP = rp && u.rspQ = rq && u.head = h && u.tail = t && u.rspM = 0#32) = true := by decide

theorem test_cycle_free :
    answers (step (offer (block 4#24 1#24 0#24 []) [0x20000000#32] [.word 0x70000005#32] []))
      (fun t => t.rspM = 0#32 ∧ t.rspP = 0x50000000#32 ∧ t.rspQ = 0#32 ∧ ¬ t.allocated) = true := by decide

theorem test_cycle_alloc :
    answers (step (offer State.reset [0x10000004#32] [.word 0x30000000#32] [0x80000000#32]))
      (fun t => t.rspM = 0#32 ∧ t.rspP = 0x50000000#32 ∧ t.rspQ = 0x10000000#32 ∧ t.allocated) = true := by
  decide

theorem test_cycle_alloc_refused :
    answers (step (offer (block 4#24 1#24 0#24 []) [0x10000004#32] [.word 0x70000005#32] []))
      (fun t => t.rspM = 0x30000000#32 ∧ t.rspP = 0x50000000#32 ∧ t.head = 1#24 ∧ t.allocated) = true := by
  decide

theorem test_cdc_producer :
    answers (step (next (offer views [] [.word 0x30000000#32] []) .clkP)) (fun t => t.rspP = 4#32) &&
      answers (step (next (offer views [] [.word 0x40000000#32] []) .clkP)) (fun t => t.rspP = 3#32) = true := by
  decide

theorem test_cdc_consumer :
    answers (step (next (offer views [] [] [0x30000000#32]) .clkQ)) (fun t => t.rspQ = 1#32) &&
      answers (step (next (offer views [] [] [0x60000008#32]) .clkQ)) (fun t =>
        t.rspQ = 1#32 ∧ t.tail = 4#24) = true := by decide

theorem test_cdc_sync :
    let s := { views with tail := 4#24 }
    answers (step (next s (.syncT 3#24))) (fun t => t.tailSeenP = 3#24) &&
      stops (step (next s (.syncT 5#24))) .snapshotOffPath &&
      stops (step (next s (.syncH 6#24))) .snapshotOffPath &&
      answers (step (next s (.syncH 5#24))) (fun t => t.headSeenQ = 5#24) = true := by decide

/-- `NOP` on port Q, and a word other than `ALLOC` and `FREE` on port M, go on inside the quiet time (R97). -/
theorem test_cdc_quiet :
    answers (step { next (offer views [] [] [0x00000000#32]) .clkQ with qHold := 1 }) (fun t => t.qHold = 0) &&
      answers (step { next (offer views [0x20000001#32] [] []) .clkP with mgmtHold := 1 }) (fun t =>
        t.rspM = 0x10000000#32) = true := by decide

/-- Every row of the opcode table runs as the first command after reset. -/
theorem test_first_command :
    [(0x00000000, some (Instr.nop .M)), (0x10000000, some (.alloc 0#24)), (0x20000000, some .free),
      (0x30000000, some (.level .P)), (0x40000000, some (.room .P)), (0x50000000, some (.peek 0#24)),
      (0x60000000, some (.consume 0#24)), (0x70000000, some (.push 0#8))].all (fun (w, i) =>
        decodeTableWord 32 w == i &&
          answers (step (State.reset.withFetchWord 32 w)) fun t =>
            answers (exec (i.getD .free) State.reset) fun u =>
              t.rspM = u.rspM && t.rspP = u.rspP && t.rspQ = u.rspQ) = true := by decide

/-! ### Witnesses: a state and operands that meet the hypotheses of each obligation, clause by clause -/

theorem witness_DecodeOfEncode :
    (Instr.level .Q).wellFormed = true ∧ (Instr.push 0xFF#8).wellFormed = true ∧ (Instr.write []).wellFormed = true := by
  decide

theorem witness_DecodeAcceptsOnlyEncodings : decode .Q 0x60FFFFFF#32 = .ok (.consume 0xFFFFFF#24) := by decide

theorem witness_ResetMeetsInvariant :
    ({ Params.standard with memDepth := 1 } : Params).wellFormed = true ∧
      ({ Params.standard with variant := .cdc, memDepth := 0xFFFFFF } : Params).wellFormed = true := by decide

theorem witness_StepKeepsInvariant : ∃ s t : State, s.Inv ∧ step s = .next t ∧ s.allocated = true ∧
    t.allocated = true ∧ t.tail = s.tail ∧ t.head ≠ s.head := by
  obtain ⟨t, h, p⟩ := answers_next (r := step (offer four [] [.word 0x70000041#32] []))
    (p := fun t => t.allocated ∧ t.tail = four.tail ∧ t.head ≠ four.head) (by decide)
  exact ⟨_, t, inv_offer four_inv _ _ _, h, rfl, of_decide_eq_true p⟩

theorem witness_ResetStepClearsBlock :
    (let s := next four (.clk true)
     s.cfg.variant = .sync ∧ s.nextMove = .clk true) ∧
    (let s := next views .rstBoth
     s.cfg.variant = .cdc ∧ s.nextMove = .rstBoth) := by decide

theorem witness_StepRunsDecodedCommands : ∃ (s : State) (wm wp wq : Word) (dm dp dq : Instr) (sM sP sQ : State),
    s.Presents wm wp wq ∧ decode .M wm = .ok dm ∧ decode .P wp = .ok dp ∧ decode .Q wq = .ok dq ∧
      (∀ c, dm ≠ .alloc c) ∧ dm ≠ .free ∧ exec dm s.inputsTaken = .next sM ∧
      exec dp s.inputsTaken = .next sP ∧ exec dq s.inputsTaken = .next sQ := by
  obtain ⟨sP, hP, -⟩ := answers_next (r := exec (.push 0x41#8)
    (offer four [] [.word 0x70000041#32] [0x60000001#32]).inputsTaken) (p := fun _ => true) (by decide)
  obtain ⟨sQ, hQ, -⟩ := answers_next (r := exec (.consume 1#24)
    (offer four [] [.word 0x70000041#32] [0x60000001#32]).inputsTaken) (p := fun _ => true) (by decide)
  exact ⟨_, 0#32, 0x70000041#32, 0x60000001#32, .nop .M, .push 0x41#8, .consume 1#24, _, sP, sQ,
    ⟨rfl, rfl, rfl, rfl, rfl, rfl⟩, by decide, by decide, by decide, fun _ => nofun, nofun, rfl, hP, hQ⟩

theorem witness_ManagementCycleIsExclusive : ∃ (s : State) (wm wp wq : Word) (dm : Instr) (sM : State),
    s.Presents wm wp wq ∧ decode .M wm = .ok dm ∧ (dm = .free ∨ ∃ c, dm = .alloc c) ∧
      exec dm s.inputsTaken = .next sM ∧ decode .P wp = .ok (.push 0x41#8) := by
  obtain ⟨sM, hM, -⟩ := answers_next (r := exec (.alloc 4#24)
    (offer four [0x10000004#32] [.word 0x70000041#32] [0x80000000#32]).inputsTaken) (p := fun _ => true) (by decide)
  exact ⟨_, 0x10000004#32, 0x70000041#32, 0x80000000#32, .alloc 4#24, sM, ⟨rfl, rfl, rfl, rfl, rfl, rfl⟩,
    by decide, .inr ⟨_, rfl⟩, hM, by decide⟩

theorem witness_IllegalWordActsAsNop : ∃ (s t tP tQ : State), s.cfg.variant = .sync ∧ s.nextMove = .clk false ∧
    s.writer = none ∧
    ((decode .M 0x20000001#32).toOption = none ∧ step { s with manager := 0x20000001#32 :: [] } = .next t) ∧
    ((decode .P 0x70000100#32).toOption = none ∧ step { s with producer := .word 0x70000100#32 :: [] } = .next tP) ∧
    ((decode .Q 0x70000042#32).toOption = none ∧ step { s with consumer := 0x70000042#32 :: [] } = .next tQ) := by
  obtain ⟨t, h, -⟩ := answers_next (r := step { four with manager := 0x20000001#32 :: [] })
    (p := fun _ => true) (by decide)
  obtain ⟨tP, hP, -⟩ := answers_next (r := step { four with producer := .word 0x70000100#32 :: [] })
    (p := fun _ => true) (by decide)
  obtain ⟨tQ, hQ, -⟩ := answers_next (r := step { four with consumer := 0x70000042#32 :: [] })
    (p := fun _ => true) (by decide)
  exact ⟨four, t, tP, tQ, rfl, rfl, rfl, ⟨by decide, h⟩, ⟨by decide, hP⟩, ⟨by decide, hQ⟩⟩

/-- Both clauses: port M idle, and `FREE` with no quiet time left. -/
theorem witness_CdcProducerStepRunsDecoded :
    [(0x00000000#32, Instr.nop .M), (0x20000000#32, Instr.free)].all (fun (wm, dm) =>
      let s := next (offer views [wm] [.word 0x70000041#32] []) .clkP
      decide (s.cfg.variant = .cdc ∧ s.nextMove = .clkP ∧ s.writer = none ∧ s.mgmtHold = 0 ∧
          s.manager.headD 0#32 = wm ∧ s.producer.headD (.word 0#32) = .word 0x70000041#32 ∧
          (decode .M wm).toOption = some dm ∧ (decode .P 0x70000041#32).toOption = some (.push 0x41#8)) &&
        answers (exec dm { s with sched := s.sched.tail, manager := s.manager.tail, producer := s.producer.tail })
          (fun _ => true) &&
        answers (exec (.push 0x41#8)
          { s with sched := s.sched.tail, manager := s.manager.tail, producer := s.producer.tail })
          (fun _ => true)) = true := by decide

/-- `NOP` inside the quiet time of port Q, and `CONSUME` outside it. -/
theorem witness_CdcConsumerStepRunsDecoded :
    [(0x00000000#32, Instr.nop .Q, 3), (0x60000001#32, Instr.consume 1#24, 0)].all (fun (w, d, hold) =>
      let s := { next (offer views [] [] [w]) .clkQ with qHold := hold }
      decide (s.cfg.variant = .cdc ∧ s.nextMove = .clkQ ∧ s.consumer.headD 0#32 = w ∧
          (decode .Q w).toOption = some d ∧ (d = .nop .Q ∨ s.qHold = 0)) &&
        answers (exec d { s with sched := s.sched.tail, consumer := s.consumer.tail }) (fun _ => true)) = true := by
  decide

theorem witness_NopAnswersOk : (1#24 : Idx) ≠ 0#24 := by decide

/-- Each clause at the boundary of its range: `c` = 0; allocated; `MEM_DEPTH` + 1; `MEM_DEPTH`. -/
theorem witness_AllocCreatesBuffer :
    (four.allocated = true ∧ (1#24 : Idx) ≠ 0#24) ∧ State.reset.cfg.memDepth < (17#24 : Idx).toNat ∧
      (State.reset.allocated = false ∧ (16#24 : Idx) ≠ 0#24 ∧ (16#24 : Idx).toNat ≤ State.reset.cfg.memDepth) := by
  decide

theorem witness_FreeReleasesBuffer : State.reset.allocated = false ∧ one.allocated = true := by decide

theorem witness_LevelAnswersPortLevel :
    State.reset.allocated = false ∧ (full.Inv ∧ full.allocated = true ∧ full.seenByP = full.cap.toNat - 1) ∧
      (views.Inv ∧ views.allocated = true ∧ views.seenByP = 4 ∧ views.seenByQ = 1) :=
  ⟨by decide, ⟨full_inv, by decide⟩, ⟨views_inv, by decide⟩⟩

theorem witness_RoomAnswersPortRoom :
    State.reset.allocated = false ∧ (full.Inv ∧ full.allocated = true) ∧ (one.Inv ∧ one.allocated = true) :=
  ⟨by decide, ⟨full_inv, by decide⟩, one_inv, by decide⟩

/-- The last offset in range and the first out of it. -/
theorem witness_PeekReadsRingPosition :
    State.reset.allocated = false ∧
      (four.Inv ∧ four.allocated = true ∧ (3#24 : Idx).toNat < four.seenByQ ∧ four.seenByQ ≤ (4#24 : Idx).toNat) :=
  ⟨by decide, four_inv, by decide⟩

theorem witness_PeekReturnsQueueByte : four.Inv ∧ four.allocated = true ∧ (3#24 : Idx).toNat < four.seenByQ :=
  ⟨four_inv, by decide⟩

/-- An empty queue and one of four bytes. -/
theorem witness_ConsumeRemovesClamped :
    State.reset.allocated = false ∧ (empty.Inv ∧ empty.allocated = true ∧ empty.seenByQ = 0) ∧
      (four.Inv ∧ four.allocated = true ∧ four.seenByQ = 4) :=
  ⟨by decide, ⟨empty_inv, by decide⟩, four_inv, by decide⟩

theorem witness_DrainEmptiesQueue :
    (four.Inv ∧ four.allocated = true) ∧ (views.Inv ∧ views.allocated = true) :=
  ⟨⟨four_inv, by decide⟩, views_inv, by decide⟩

/-- No buffer, full, capacity 1, and with room. -/
theorem witness_PushStoresAtHead :
    State.reset.allocated = false ∧
      (full.Inv ∧ full.allocated = true ∧ full.seenByP = full.cap.toNat - 1) ∧
      (one.Inv ∧ one.allocated = true ∧ one.seenByP = one.cap.toNat - 1) ∧
      (four.Inv ∧ four.allocated = true ∧ four.seenByP < four.cap.toNat - 1) :=
  ⟨by decide, ⟨full_inv, by decide⟩, ⟨one_inv, by decide⟩, four_inv, by decide⟩

theorem witness_PushFailsExactlyWhenFull :
    (full.Inv ∧ full.allocated = true ∧ full.outputs.pFull = true) ∧
      (four.Inv ∧ four.allocated = true ∧ four.outputs.pFull = false) :=
  ⟨⟨full_inv, by decide⟩, four_inv, by decide⟩

theorem witness_WriteIssuesOneByteARound :
    State.reset.Inv ∧ (four.Inv ∧ four.allocated = true ∧ four.seenByP < four.cap.toNat - 1) :=
  ⟨reset_inv, four_inv, by decide⟩

/-- Room 3 and five bytes. -/
theorem witness_WriteRunStoresWhatFits :
    let s := offer four [] [.write [1#8, 2#8, 3#8, 4#8, 5#8]] []
    s.Inv ∧ s.cfg.variant = .sync ∧ s.allocated = true ∧ s.sched = [] ∧ s.manager = [] ∧ s.consumer = [] ∧
      s.producer = [.write [1#8, 2#8, 3#8, 4#8, 5#8]] ∧ s.writer = none :=
  ⟨inv_offer four_inv _ _ _, rfl, rfl, rfl, rfl, rfl, rfl, rfl⟩

theorem witness_FailedCommandHasNoEffect :
    ∃ t, exec (.write [1#8, 2#8]) State.reset = .next t ∧ (t.rsp (Instr.write [1#8, 2#8]).port).top ≠ 0#4 := by
  obtain ⟨t, h, p⟩ := answers_next (r := exec (.write [1#8, 2#8]) State.reset)
    (p := fun t => decide ((t.rsp .P).top ≠ 0#4)) (by decide)
  exact ⟨t, h, of_decide_eq_true p⟩

theorem witness_CommandResponsesAreLegal : ∃ t, exec (.alloc 0#24) State.reset = .next t ∧
    t.rsp (Instr.alloc 0#24).port = 0x40000000#32 := ⟨_, rfl, by decide⟩

theorem witness_CommandsAlwaysComplete : State.reset.Inv ∧ four.Inv ∧ views.Inv := ⟨reset_inv, four_inv, views_inv⟩

theorem witness_SyncCyclesAlwaysComplete :
    (four.Inv ∧ four.cfg.variant = .sync ∧ four.nextMove = .clk false) ∧
      ((next four (.clk true)).Inv ∧ (next four (.clk true)).nextMove = .clk true) :=
  ⟨⟨four_inv, by decide⟩, inv_next four_inv _, by decide⟩

/-- Every fault a step of the invariant has. -/
theorem witness_StepStopsOnlyWithoutMove :
    (views.Inv ∧ (next views (.syncT 5#24)).Inv ∧ (next views (.syncH 6#24)).Inv) ∧
      step (next views (.syncT 5#24)) = .fault .snapshotOffPath ∧
      step (next views (.syncH 6#24)) = .fault .snapshotOffPath ∧
      step (next views .rstP) = .fault .oneDomainReset ∧ step (next views .rstQ) = .fault .oneDomainReset ∧
      step (next views (.clk false)) = .fault .stepOfOtherVariant ∧
      step (next four .clkP) = .fault .stepOfOtherVariant ∧
      step { next (offer views [0x20000000#32] [] []) .clkP with mgmtHold := 1 } = .fault .quietBroken ∧
      step { next (offer views [] [] [0x60000000#32]) .clkQ with qHold := 1 } = .fault .quietBroken :=
  ⟨⟨views_inv, inv_next views_inv _, inv_next views_inv _⟩, stops_fault (by decide), stops_fault (by decide),
    stops_fault (by decide), stops_fault (by decide), stops_fault (by decide), stops_fault (by decide),
    stops_fault (by decide), stops_fault (by decide)⟩

theorem witness_OneDomainResetHasNoMove :
    cdcReset.cfg.variant = .cdc ∧ (next cdcReset .rstP).nextMove = .rstP ∧ (next cdcReset .rstQ).nextMove = .rstQ := by
  decide

/-- A `PUSH` and a `CONSUME` in one cycle, so that the queue changes at both ends. -/
theorem witness_StepRefinesQueue : ∃ s t : State, s.Inv ∧ step s = .next t ∧ s.allocated = true ∧
    t.allocated = true ∧ t.head ≠ s.head ∧ t.tail ≠ s.tail := by
  obtain ⟨t, h, p⟩ := answers_next (r := step (offer four [] [.word 0x70000041#32] [0x60000002#32]))
    (p := fun t => t.allocated ∧ t.head ≠ four.head ∧ t.tail ≠ four.tail) (by decide)
  exact ⟨_, t, inv_offer four_inv _ _ _, h, rfl, of_decide_eq_true p⟩

/-- With room and full. -/
theorem witness_SameCyclePushAndConsume :
    encode (.push 0x41#8) = [0x70000041#32] ∧ encode (.consume 2#24) = [0x60000002#32] ∧
      (∀ s ∈ [four, full], (offer s [] [.word 0x70000041#32] [0x60000002#32]).Presents
        0x00000000#32 0x70000041#32 0x60000002#32) ∧
      (offer four [] [.word 0x70000041#32] [0x60000002#32]).Inv ∧
      (offer full [] [.word 0x70000041#32] [0x60000002#32]).Inv := by
  refine ⟨by decide, by decide, ?_, inv_offer four_inv _ _ _, inv_offer full_inv _ _ _⟩
  intro s hs
  rcases List.mem_pair.mp hs with rfl | rfl <;> exact ⟨rfl, rfl, rfl, rfl, rfl, rfl⟩

theorem witness_ParametersNeverChange : ∃ t, step State.reset = .next t ∧ t.allocated = false := by
  obtain ⟨t, h, p⟩ := answers_next (r := step State.reset) (p := fun t => !t.allocated) (by decide)
  exact ⟨t, h, by simpa using p⟩

theorem witness_CapacityIsImmutable :
    (∃ t, step four = .next t ∧ four.allocated = true ∧ t.allocated = true) ∧
      (∃ t, exec .free four = .next t ∧ t.cap ≠ four.cap) ∧ ∃ t, exec (.alloc 4#24) four = .next t := by
  obtain ⟨a, ha, pa⟩ := answers_next (r := step four) (p := fun t => t.allocated) (by decide)
  obtain ⟨t, h, p⟩ := answers_next (r := exec .free four) (p := fun t => decide (t.cap ≠ four.cap)) (by decide)
  exact ⟨⟨a, ha, rfl, pa⟩, ⟨t, h, of_decide_eq_true p⟩, _, rfl⟩

/-- The command clause; the step clause is met by witness_StepKeepsInvariant. -/
theorem witness_HeadMovesOnlyByPush :
    ∃ t, exec (.write [1#8]) four = .next t ∧ four.allocated = true ∧ t.allocated = true ∧ t.head ≠ four.head := by
  obtain ⟨t, h, p⟩ := answers_next (r := exec (.write [1#8]) four)
    (p := fun t => t.allocated ∧ t.head ≠ four.head) (by decide)
  exact ⟨t, h, rfl, of_decide_eq_true p⟩

theorem witness_TailMovesOnlyByConsume :
    (∃ s t : State, s.Inv ∧ step s = .next t ∧ s.allocated = true ∧ t.allocated = true ∧ t.tail ≠ s.tail) ∧
      ∃ t, exec .drain four = .next t ∧ four.allocated = true ∧ t.allocated = true ∧ t.tail ≠ four.tail := by
  obtain ⟨t, h, p⟩ := answers_next (r := step (offer four [] [] [0x60000001#32]))
    (p := fun t => t.allocated ∧ t.tail ≠ four.tail) (by decide)
  obtain ⟨u, k, q⟩ := answers_next (r := exec .drain four) (p := fun t => t.allocated ∧ t.tail ≠ four.tail) (by decide)
  exact ⟨⟨_, t, inv_offer four_inv _ _ _, h, rfl, of_decide_eq_true p⟩, u, k, rfl, of_decide_eq_true q⟩

theorem witness_ModelFaultsAreSticky :
    (∃ s t : State, step s = .next t ∧ s.faults.peekOutOfRange = true) ∧
      ∃ t, exec (.peek 4#24) four = .next t ∧ t.faults ≠ four.faults := by
  obtain ⟨t, h, -⟩ := answers_next (r := step { four with faults := { peekOutOfRange := true } })
    (p := fun _ => true) (by decide)
  obtain ⟨u, k, q⟩ := answers_next (r := exec (.peek 4#24) four) (p := fun t => decide (t.faults ≠ four.faults))
    (by decide)
  exact ⟨⟨_, t, h, rfl⟩, u, k, of_decide_eq_true q⟩

/-- Empty, full, in between. -/
theorem witness_ComparatorsMatchLevels :
    State.reset.allocated = false ∧ (empty.Inv ∧ empty.allocated = true ∧ empty.pEmpty = true) ∧
      (full.Inv ∧ full.allocated = true ∧ full.pFull = true) ∧
      (four.Inv ∧ four.allocated = true ∧ four.pFull = false ∧ four.pEmpty = false) :=
  ⟨by decide, ⟨empty_inv, by decide⟩, ⟨full_inv, by decide⟩, four_inv, by decide⟩

theorem witness_CapacityOneIsEmptyAndFull : one.Inv ∧ one.allocated = true ∧ one.cap = 1#24 := ⟨one_inv, by decide⟩

/-- `HEAD` stays while `TAIL` moves; the other clause is met by witness_StepKeepsInvariant. -/
theorem witness_SafeBoundsUntilOwnMove : ∃ s t : State, s.Inv ∧ step s = .next t ∧ s.allocated = true ∧
    t.allocated = true ∧ t.head = s.head ∧ t.tail ≠ s.tail := by
  obtain ⟨t, h, p⟩ := answers_next (r := step (offer four [] [] [0x60000001#32]))
    (p := fun t => t.allocated ∧ t.head = four.head ∧ t.tail ≠ four.tail) (by decide)
  exact ⟨_, t, inv_offer four_inv _ _ _, h, rfl, of_decide_eq_true p⟩

theorem witness_InspectionIsStable : ∃ s t : State, s.Inv ∧ step s = .next t ∧ s.allocated = true ∧
    t.allocated = true ∧ t.tail = s.tail ∧ 3 < s.seenByQ := by
  obtain ⟨t, h, p⟩ := answers_next (r := step (offer four [] [.word 0x70000041#32] []))
    (p := fun t => t.allocated ∧ t.tail = four.tail) (by decide)
  have p := of_decide_eq_true p
  exact ⟨_, t, inv_offer four_inv _ _ _, h, rfl, p.1, p.2, by decide⟩

theorem witness_OthersDoNotSeeProducerOrConsumerWords :
    (∃ t t' : State, step { four with consumer := [0x60000001#32] } = .next t ∧
      step { four with consumer := [0x50000009#32] } = .next t') ∧
    (∃ t t' : State, step { four with producer := [.word 0x70000041#32] } = .next t ∧
      step { four with producer := [.write [1#8, 2#8]] } = .next t') := by
  obtain ⟨a, ha, -⟩ := answers_next (r := step { four with consumer := [0x60000001#32] }) (p := fun _ => true) (by decide)
  obtain ⟨b, hb, -⟩ := answers_next (r := step { four with consumer := [0x50000009#32] }) (p := fun _ => true) (by decide)
  obtain ⟨c, hc, -⟩ := answers_next (r := step { four with producer := [.word 0x70000041#32] }) (p := fun _ => true)
    (by decide)
  obtain ⟨d, hd, -⟩ := answers_next (r := step { four with producer := [.write [1#8, 2#8]] }) (p := fun _ => true)
    (by decide)
  exact ⟨⟨a, b, ha, hb⟩, c, d, hc, hd⟩

theorem witness_CdcViewsAreBounds :
    views.Inv ∧ views.allocated = true ∧ views.cfg.variant = .cdc ∧ views.sched = [] := ⟨views_inv, by decide⟩

theorem witness_SnapshotsCatchUp :
    views.Inv ∧ views.cfg.variant = .cdc ∧ views.allocated = true ∧ views.sched = [] ∧
      views.tailSeenP ≠ views.tail ∧ views.headSeenQ ≠ views.head := ⟨views_inv, by decide⟩

/-- On the path up to the pointer, and one past it. -/
theorem witness_SnapshotsMoveOnlyForward :
    (let s := next views (.syncT 3#24)
     s.cfg.variant = .cdc ∧ s.nextMove = .syncT 3#24 ∧ s.allocated = true ∧ (3#24 : Idx).toNat < s.cap.toNat ∧
       (((3#24 : Idx).toNat : Int) - s.tailSeenP.toNat) % s.cap.toNat ≤
         ((s.tail.toNat : Int) - s.tailSeenP.toNat) % s.cap.toNat) ∧
    (let s := next views (.syncT 4#24)
     s.Inv ∧ s.nextMove = .syncT 4#24 ∧
       ¬ (((4#24 : Idx).toNat : Int) - s.tailSeenP.toNat) % s.cap.toNat ≤
         ((s.tail.toNat : Int) - s.tailSeenP.toNat) % s.cap.toNat) ∧
    (let s := next views (.syncH 5#24)
     s.nextMove = .syncH 5#24 ∧ (5#24 : Idx).toNat < s.cap.toNat ∧
       (((5#24 : Idx).toNat : Int) - s.headSeenQ.toNat) % s.cap.toNat ≤
         ((s.head.toNat : Int) - s.headSeenQ.toNat) % s.cap.toNat) ∧
    (let s := next views (.syncH 6#24)
     s.Inv ∧ s.nextMove = .syncH 6#24 ∧
       ¬ (((6#24 : Idx).toNat : Int) - s.headSeenQ.toNat) % s.cap.toNat ≤
         ((s.head.toNat : Int) - s.headSeenQ.toNat) % s.cap.toNat) :=
  ⟨by decide, ⟨inv_next views_inv _, by decide⟩, by decide, inv_next views_inv _, by decide⟩

/-- Each clause, in both variants: refused, the last byte stored, a byte stored with more to come; and steps that leave
the `WRITE` alone. -/
theorem witness_WriteLoopFollowsResponses :
    (∀ s ∈ [four, next four (.clk true), next views .clkP, next views .rstBoth],
      (s.cfg.variant = .sync ∧ (s.nextMove = .clk false ∨ s.nextMove = .clk true)) ∨
        (s.cfg.variant = .cdc ∧ (s.nextMove = .clkP ∨ s.nextMove = .rstBoth))) ∧
    (Word.top 0x00000001#32 = 0#4 ∧ Word.low 0x00000001#32 ≠ 0#24) ∧
    (Word.low 0x00000000#32 = 0#24 ∧ Word.top 0x50000000#32 ≠ 0#4 ∧ Word.top 0x20000000#32 ≠ 0#4) ∧
    [(true, Move.clkQ), (true, .syncT 3#24), (true, .syncH 5#24), (false, .rstBoth)].all (fun (a, m) =>
      answers (step { next views m with writer := some { rest := [1#8], written := 2, awaiting := a } })
        fun _ => true) = true := by decide

/-- Each clause, in a `SYNC` cycle without and with reset and in `StepP`. -/
theorem witness_WriteIssuesItsBytesAsPushes :
    encode (.push 0x41#8) = [0x70000041#32] ∧
    [four, next four (.clk true), next views .clkP].all (fun s =>
      answers (step { s with writer := none, producer := .word 0x70000041#32 :: s.producer }) (fun _ => true) &&
      answers (step { s with producer := .word 0x70000041#32 :: [] }) (fun _ => true) &&
      answers (step { s with producer := .word 0x00000000#32 :: [] }) (fun _ => true)) = true := by decide

theorem witness_CdcIllegalWordActsAsNop :
    (views.Inv ∧ (next views .clkP).Inv ∧ (next views .clkQ).Inv) ∧
    (next views .clkP).nextMove = .clkP ∧ { next views .clkQ with consumer := [0x70000042#32] }.nextMove = .clkQ ∧
    (decode .M 0x20000001#32).toOption = none ∧ (decode .P 0x70000100#32).toOption = none ∧
    (decode .Q 0x70000042#32).toOption = none ∧ views.writer = none ∧ views.mgmtHold = 0 ∧ views.qHold = 0 :=
  ⟨⟨views_inv, inv_next views_inv _, inv_next views_inv _⟩, by decide⟩

/-- With one cycle of quiet time left. -/
theorem witness_BrokenQuietTimeHasNoMove :
    (let s : State := { next (offer views [0x20000000#32] [] []) .clkP with mgmtHold := 1 }
     s.cfg.variant = .cdc ∧ s.nextMove = .clkP ∧ (decode .M (s.manager.headD 0#32)).toOption = some .free ∧
       0 < s.mgmtHold) ∧
    (let s : State := { next (offer views [] [] [0x80000000#32]) .clkQ with qHold := 1 }
     s.cfg.variant = .cdc ∧ s.nextMove = .clkQ ∧ (decode .Q (s.consumer.headD 0#32)).toOption = none ∧
       0 < s.qHold) := by decide

end Sys2Proof.Tests
end

section
/-! PROOFS. The invariant (10_state.md R25, 45_cdc_variant.md R93): the ring paths behind R93, one lemma an operation of
the block that it keeps the invariant, and from them the step. -/

namespace Sys2Proof.Machine

/-! ### Paths on the ring -/

theorem onPath_iff {c a x b : Nat} : onPath c a x b = true ↔ lvl c x a ≤ lvl c b a := by simp [onPath]

/-- The place `n` steps after `p` lies at distance `n` from it. -/
theorem lvl_inc_self {c p n : Nat} (hp : p < c) (hn : n < c) : lvl c (inc c p n) p = n := by
  rw [lvl_eq (inc_lt (by omega) p n) hp, inc_eq hp (by omega)]
  split_ifs <;> omega

/-- From `a` over `x` to `b` and from `x` over `y` to `b`: `y` lies on the path from `a`. -/
theorem onPath_trans {c a x y b : Nat} (ha : a < c) (hx : x < c) (hy : y < c) (hb : b < c)
    (hax : onPath c a x b = true) (hxy : onPath c x y b = true) : onPath c a y b = true := by
  rw [onPath_iff, lvl_eq hx ha, lvl_eq hb ha] at hax
  rw [onPath_iff, lvl_eq hy hx, lvl_eq hb hx] at hxy
  rw [onPath_iff, lvl_eq hy ha, lvl_eq hb ha]
  split_ifs at * <;> omega

/-- From `a` over `x` to `b` and from `a` over `y` to `x`: `x` lies on the path from `y`. -/
theorem onPath_from_later {c a x y b : Nat} (ha : a < c) (hx : x < c) (hy : y < c) (hb : b < c)
    (hax : onPath c a x b = true) (hay : onPath c a y x = true) : onPath c y x b = true := by
  rw [onPath_iff, lvl_eq hx ha, lvl_eq hb ha] at hax
  rw [onPath_iff, lvl_eq hy ha, lvl_eq hx ha] at hay
  rw [onPath_iff, lvl_eq hx hy, lvl_eq hb hy]
  split_ifs at * <;> omega

/-- A place of the path to `h` is on the path to the next place, while one slot before `a` stays unused. -/
theorem onPath_inc_end {c a x h : Nat} (hh : h < c) (ha : a < c) (room : lvl c h a < c - 1)
    (hx : onPath c a x h = true) : onPath c a x (inc c h 1) = true := by
  rw [onPath_iff] at hx ⊢
  rw [lvl_inc_head hh ha room]
  omega

/-! ### Which states have the invariant -/

/-- A block without a buffer, its storage unwritten (10_state.md R32). -/
theorem State.inv_of_cleared {s : State} (hp : s.cfg.wellFormed = true) (ha : s.allocated = false)
    (hz : s.allZero) (hm : s.mem = Memory.blank) (hM : legalResponse s.rspM)
    (hP : legalResponse s.rspP) (hQ : legalResponse s.rspQ) : s.Inv where
  params := hp
  memory := hm ▸ Memory.wf_blank
  extent := by simp [hm, Memory.blank]
  live := by simp [ha]
  idle := fun _ => hz
  filled := by simp [ha]
  views := by simp [ha]
  noViews := fun _ => hz.2.2.2
  rspM := hM
  rspP := hP
  rspQ := hQ

/-- The invariant is one of the block and of legal responses. -/
theorem State.Inv.of_sameBlock {s t : State} (inv : s.Inv) (h : SameBlock t s)
    (hM : legalResponse t.rspM) (hP : legalResponse t.rspP) (hQ : legalResponse t.rspQ) : t.Inv where
  params := by simpa only [h.cfg] using inv.params
  memory := by simpa only [h.mem] using inv.memory
  extent := by simpa only [h.mem, h.cfg] using inv.extent
  live := by simpa only [State.liveBounds, h.allocated, h.cfg, h.cap, h.head, h.tail] using inv.live
  idle := by
    simpa only [State.allZero, h.allocated, h.cap, h.head, h.tail, h.tailSeenP, h.headSeenQ] using inv.idle
  filled := by simpa only [h.allocated, h.cap, h.mem] using inv.filled
  views := by
    simpa only [State.viewsOrdered, h.allocated, h.cfg, h.cap, h.head, h.tail, h.tailSeenP, h.headSeenQ]
      using inv.views
  noViews := by simpa only [h.cfg, h.tailSeenP, h.headSeenQ] using inv.noViews
  rspM := hM
  rspP := hP
  rspQ := hQ

/-! ### What the operations of the block do to it -/

theorem State.Inv.resetRegisters {s : State} (inv : s.Inv) : s.resetRegisters.Inv :=
  State.inv_of_cleared inv.params rfl ⟨rfl, rfl, rfl, rfl, rfl⟩ rfl legalResponse_zero legalResponse_zero
    legalResponse_zero

/-- Creating or releasing a buffer leaves both snapshots at 0, in either variant (40_lifecycle.md R63, R64). -/
theorem State.Inv.clearViews_zero {s : State} (inv : s.Inv) :
    s.clearViews.tailSeenP = 0#24 ∧ s.clearViews.headSeenQ = 0#24 := by
  rw [State.clearViews_tailSeenP, State.clearViews_headSeenQ]
  split_ifs with hv
  · exact inv.noViews hv
  · exact ⟨rfl, rfl⟩

theorem State.Inv.createBuffer {s : State} (inv : s.Inv) {c : Idx} (h0 : c ≠ 0#24)
    (hd : c.toNat ≤ s.cfg.memDepth) : (s.createBuffer c).Inv := by
  have hc : 0 < c.toNat := Nat.pos_of_ne_zero fun h => h0 (BitVec.eq_of_toNat_eq h)
  obtain ⟨hT, hH⟩ := inv.clearViews_zero
  obtain ⟨hz, hcells⟩ := inv.extent
  constructor
  case params => simpa using inv.params
  case memory => simpa using Memory.wf_zeroFill c.toNat inv.memory
  case extent =>
    simp only [State.createBuffer_mem, State.createBuffer_cfg]
    exact ⟨max_le hz hd, fun e he => lt_max_of_lt_left (hcells e (Memory.cells_zeroFill_sub he))⟩
  case live => intro _; simpa [State.liveBounds] using ⟨hc, hd, hc⟩
  case idle => simp
  case filled => intro _; simp [Memory.zeroFill]
  case views => intro _ _; simpa [State.viewsOrdered, hT, hH, onPath] using hc
  case noViews => intro _; simp [hT, hH]
  case rspM => simpa using inv.rspM
  case rspP => simpa using inv.rspP
  case rspQ => simpa using inv.rspQ

theorem State.Inv.releaseBuffer {s : State} (inv : s.Inv) : s.releaseBuffer.Inv := by
  obtain ⟨hT, hH⟩ := inv.clearViews_zero
  constructor
  case params => simpa using inv.params
  case memory => simpa using inv.memory
  case extent => simpa using inv.extent
  case live => simp
  case idle => intro _; simp [State.allZero, hT, hH]
  case filled => simp
  case views => simp
  case noViews => intro _; simp [hT, hH]
  case rspM => simpa using inv.rspM
  case rspP => simpa using inv.rspP
  case rspQ => simpa using inv.rspQ

/-- Room on port P is a slot besides the one that stays unused (41_queries.md R65). -/
theorem State.levelP_lt_of_room {s : State} (hr : s.roomP ≠ 0) : s.levelP < s.cap.toNat - 1 := by
  unfold State.roomP at hr
  omega

section
variable {s : State} (inv : s.Inv) (ha : s.allocated = true)
include inv ha

/-- Room that port P sees is there (45_cdc_variant.md R93). -/
theorem State.Inv.trueLevel_lt_of_room (hr : s.roomP ≠ 0) : s.trueLevel < s.cap.toNat - 1 :=
  lt_of_le_of_lt (inv.views_bound ha).2 (State.levelP_lt_of_room hr)

theorem State.Inv.append_head_toNat (b : Byte) :
    (s.append b).head.toNat = inc s.cap.toNat s.head.toNat 1 :=
  pointer_inc_toNat _ _ _ (inv.cap_pos ha)

theorem State.Inv.remove_tail_toNat (k : Nat) :
    (s.remove k).tail.toNat = inc s.cap.toNat s.tail.toNat k :=
  pointer_inc_toNat _ _ _ (inv.cap_pos ha)

/-- Storing a byte hides none from port Q. -/
theorem State.Inv.levelQ_le_append (hr : s.roomP ≠ 0) (b : Byte) : s.levelQ ≤ (s.append b).levelQ := by
  have hl := lvl_inc_head (inv.head_lt ha) (inv.tail_lt ha) (inv.trueLevel_lt_of_room ha hr)
  rw [← inv.append_head_toNat ha b] at hl
  unfold State.levelQ State.headViewQ
  cases hv : s.cfg.variant with
  | sync =>
    simp only [State.append_cfg, State.append_cap, State.append_tail, hv, hl]
    omega
  | cdc => simp [hv]

/-- R93 after a stored byte. -/
theorem State.Inv.viewsOrdered_append (hv : s.cfg.variant = .cdc) (hr : s.roomP ≠ 0) (b : Byte) :
    (s.append b).viewsOrdered := by
  obtain ⟨hts, hhs, hpt, hph⟩ := inv.views ha hv
  have hroomP : lvl s.cap.toNat s.head.toNat s.tailSeenP.toNat < s.cap.toNat - 1 := by
    simpa [State.levelP, State.tailViewP, hv] using State.levelP_lt_of_room hr
  unfold State.viewsOrdered
  rw [inv.append_head_toNat ha]
  exact ⟨hts, hhs, onPath_inc_end (inv.head_lt ha) hts hroomP hpt,
    onPath_inc_end (inv.head_lt ha) (inv.tail_lt ha) (inv.trueLevel_lt_of_room ha hr) hph⟩

theorem State.Inv.append (hr : s.roomP ≠ 0) (b : Byte) : (s.append b).Inv where
  params := inv.params
  memory := Memory.wf_write _ _ inv.memory
  extent := by
    simp only [State.append_mem, Memory.zeroed_write]
    exact ⟨inv.extent.1, Memory.cells_write_lt (lt_of_lt_of_le (inv.head_lt ha) (inv.filled ha)) inv.extent.2⟩
  live := fun _ => by
    obtain ⟨h1, hd, -, ht⟩ := inv.live ha
    exact ⟨h1, hd, inv.append_head_toNat ha b ▸ inc_lt (inv.cap_pos ha) _ _, ht⟩
  idle := by simp [ha]
  filled := by simpa using inv.filled
  views := fun _ hv => inv.viewsOrdered_append ha hv hr b
  noViews := inv.noViews
  rspM := inv.rspM
  rspP := inv.rspP
  rspQ := inv.rspQ

/-- R93 after a removal of bytes that port Q sees. -/
theorem State.Inv.viewsOrdered_remove (hv : s.cfg.variant = .cdc) {k : Nat} (hk : k ≤ s.levelQ) :
    (s.remove k).viewsOrdered := by
  obtain ⟨hts, hhs, hpt, hph⟩ := inv.views ha hv
  have hh := inv.head_lt ha
  have ht := inv.tail_lt ha
  have hkc : k < s.cap.toNat := lt_of_le_of_lt hk (inv.levelQ_lt ha)
  have hkq : k ≤ lvl s.cap.toNat s.headSeenQ.toNat s.tail.toNat := by
    simpa [State.levelQ, State.headViewQ, hv] using hk
  have ht' : inc s.cap.toNat s.tail.toNat k < s.cap.toNat := inc_lt (inv.cap_pos ha) _ _
  have hseen : onPath s.cap.toNat s.tail.toNat (inc s.cap.toNat s.tail.toNat k) s.headSeenQ.toNat = true := by
    rwa [onPath_iff, lvl_inc_self ht hkc]
  have hhead : onPath s.cap.toNat s.tail.toNat (inc s.cap.toNat s.tail.toNat k) s.head.toNat = true :=
    onPath_iff.mpr ((onPath_iff.mp hseen).trans (onPath_iff.mp hph))
  unfold State.viewsOrdered
  rw [inv.remove_tail_toNat ha]
  exact ⟨hts, hhs, onPath_trans hts ht ht' hh hpt hhead, onPath_from_later ht hhs ht' hh hph hseen⟩

theorem State.Inv.remove {k : Nat} (hk : k ≤ s.levelQ) : (s.remove k).Inv where
  params := inv.params
  memory := inv.memory
  extent := inv.extent
  live := fun _ => by
    obtain ⟨h1, hd, hh, -⟩ := inv.live ha
    exact ⟨h1, hd, hh, inv.remove_tail_toNat ha k ▸ inc_lt (inv.cap_pos ha) _ _⟩
  idle := by simp [ha]
  filled := inv.filled
  views := fun _ hv => inv.viewsOrdered_remove ha hv hk
  noViews := inv.noViews
  rspM := inv.rspM
  rspP := inv.rspP
  rspQ := inv.rspQ

end

theorem State.between_iff {s : State} {a x b : Idx} :
    s.between a x b = true ↔
      s.allocated = true ∧ x.toNat < s.cap.toNat ∧ onPath s.cap.toNat a.toNat x.toNat b.toNat = true := by
  simp [State.between, and_assoc]

/-- `SyncT` (45_cdc_variant.md R90): the snapshot stays behind `TAIL`. -/
theorem State.Inv.syncTail {s : State} (inv : s.Inv) {v : Idx} (hv : s.cfg.variant = .cdc)
    (hb : s.between s.tailSeenP v s.tail = true) : { s with tailSeenP := v }.Inv := by
  obtain ⟨ha, hlt, hpath⟩ := State.between_iff.mp hb
  obtain ⟨hts, hhs, hpt, hph⟩ := inv.views ha hv
  exact { inv with
    idle := fun h => absurd ha (by simpa using h)
    views := fun _ _ =>
      ⟨hlt, hhs, onPath_from_later hts (inv.tail_lt ha) hlt (inv.head_lt ha) hpt hpath, hph⟩
    noViews := fun h => absurd (hv.symm.trans h) (by decide) }

/-- `SyncH` (R90): the snapshot stays between `TAIL` and `HEAD`. -/
theorem State.Inv.syncHead {s : State} (inv : s.Inv) {v : Idx} (hv : s.cfg.variant = .cdc)
    (hb : s.between s.headSeenQ v s.head = true) : { s with headSeenQ := v }.Inv := by
  obtain ⟨ha, hlt, hpath⟩ := State.between_iff.mp hb
  obtain ⟨hts, hhs, hpt, hph⟩ := inv.views ha hv
  exact { inv with
    idle := fun h => absurd ha (by simpa using h)
    views := fun _ _ =>
      ⟨hts, hlt, hpt, onPath_trans (inv.tail_lt ha) hhs hlt (inv.head_lt ha) hph hpath⟩
    noViews := fun h => absurd (hv.symm.trans h) (by decide) }

/-! ### The invariant of every reachable state -/

/-- Every change a step can make ends in a block with the invariant. -/
theorem StepEffect.inv {s t : State} (e : StepEffect s t) (inv : s.Inv) : ∃ u : State, u.Inv ∧ SameBlock t u := by
  cases e with
  | same h => exact ⟨_, inv, h⟩
  | created c hs h0 hd h => exact ⟨_, inv.createBuffer h0 hd, h⟩
  | released hs h => exact ⟨_, inv.releaseBuffer, h⟩
  | reset h => exact ⟨_, inv.resetRegisters, h⟩
  | consumed k hs hk hw hq h => exact ⟨_, inv.remove hs hk, h⟩
  | pushed b hs hr hd hp h => exact ⟨_, inv.append hs hr b, h⟩
  | both b k hs hr hd hk hw hp hq h =>
    exact ⟨_, (inv.append hs hr b).remove hs (hk.trans (inv.levelQ_le_append hs hr b)), h⟩
  | syncedT v hv hb h => exact ⟨_, inv.syncTail hv hb, h⟩
  | syncedH v hv hb h => exact ⟨_, inv.syncHead hv hb, h⟩

/-- A response is the old one or a legal one, so it is legal. -/
theorem StepFacts.inv {s t : State} (f : StepFacts s t) (inv : s.Inv) : t.Inv := by
  obtain ⟨u, hu, hb⟩ := f.effect.inv inv
  exact hu.of_sameBlock hb (f.rspM.elim (· ▸ inv.rspM) id) (f.rspP.elim (· ▸ inv.rspP) id)
    (f.rspQ.elim (· ▸ inv.rspQ) id)

/-- Settles O8: each change a step can make to the block keeps the invariant. -/
theorem stepKeepsInvariant : Obligations.StepKeepsInvariant :=
  fun _ _ inv h => (step_facts h).inv inv

theorem State.inv_resetWith {p : Params} (hp : p.wellFormed = true) : (State.resetWith p).Inv :=
  State.inv_of_cleared hp rfl ⟨rfl, rfl, rfl, rfl, rfl⟩ rfl legalResponse_zero legalResponse_zero
    legalResponse_zero

/-- Settles O7: a block after reset has no buffer and unwritten storage. -/
theorem resetMeetsInvariant : Obligations.ResetMeetsInvariant :=
  ⟨State.inv_resetWith (by decide), fun _ hp => State.inv_resetWith hp⟩

/-- Settles O6: the registers of `State.resetWith`, and the comparators of a block without a buffer (41_queries.md
R68). -/
theorem resetValues : Obligations.ResetValues := by
  intro p
  refine ⟨rfl, rfl, rfl, rfl, rfl, rfl, rfl, rfl, ?_⟩
  simp [State.outputs, State.pFull, State.pEmpty, State.qFull, State.qEmpty, State.resetWith]

end Sys2Proof.Machine
end

section
/-! PROOFS. What a step and a command do to a buffer that stays: the queue (10_state.md R27), the pointers (R23, R24)
and the capacity (R21); the parameters (R31); what `PEEK` reads (42_consumer.md R71). -/

namespace Sys2Proof.Machine

/-! ### A step on a buffer that stays -/

/-- What a step does to a buffer that it neither creates nor releases: port P stores at most one byte and announces it,
port Q removes some bytes and announces their number. -/
structure BufferStep (s t : State) : Prop where
  cap : t.cap = s.cap
  era : t.era = s.era
  producer : (t.head = s.head ∧ t.mem = s.mem) ∨
    ∃ b, s.roomP ≠ 0 ∧ t.rspP = response .ok 1 ∧ t.head = (s.append b).head ∧ t.mem = (s.append b).mem
  consumer : t.tail = s.tail ∨
    ∃ k, k ≤ s.levelQ ∧ k < 2 ^ 24 ∧ t.rspQ = response .ok k ∧ t.tail = (s.remove k).tail

theorem StepEffect.bufferStep {s t : State} (e : StepEffect s t) (hs : s.allocated = true)
    (ht : t.allocated = true) : BufferStep s t := by
  cases e with
  | same h => exact ⟨h.cap, h.era, .inl ⟨h.head, h.mem⟩, .inl h.tail⟩
  | created c hs' => exact absurd hs (by simp [hs'])
  | released _ h => exact absurd (ht.symm.trans h.allocated) (by simp)
  | reset h => exact absurd (ht.symm.trans h.allocated) (by simp)
  | consumed k _ hk hw hq h => exact ⟨h.cap, h.era, .inl ⟨h.head, h.mem⟩, .inr ⟨k, hk, hw, hq, h.tail⟩⟩
  | pushed b _ hr _ hp h => exact ⟨h.cap, h.era, .inr ⟨b, hr, hp, h.head, h.mem⟩, .inl h.tail⟩
  | both b k _ hr _ hk hw hp hq h =>
    exact ⟨h.cap, h.era, .inr ⟨b, hr, hp, h.head, h.mem⟩, .inr ⟨k, hk, hw, hq, h.tail⟩⟩
  | syncedT v _ _ h => exact ⟨h.cap, h.era, .inl ⟨h.head, h.mem⟩, .inl h.tail⟩
  | syncedH v _ _ h => exact ⟨h.cap, h.era, .inl ⟨h.head, h.mem⟩, .inl h.tail⟩

theorem step_bufferStep {s t : State} (h : step s = .next t) (hs : s.allocated = true)
    (ht : t.allocated = true) : BufferStep s t :=
  (step_facts h).effect.bufferStep hs ht

/-- The queue depends on these registers only. -/
theorem State.content_congr {a b : State} (hc : a.cap = b.cap) (hh : a.head = b.head)
    (ht : a.tail = b.tail) (hm : a.mem = b.mem) (he : a.era = b.era) : a.content = b.content := by
  simp [State.content, State.trueLevel, State.cellAt, State.memRead, hc, hh, ht, hm, he]

section
variable {s t : State} (inv : s.Inv) (ha : s.allocated = true)
include inv ha

/-- Removing no byte moves nothing, so port Q's side of a step is always the removal of some number of bytes. -/
theorem BufferStep.tail_eq_remove (d : BufferStep s t) :
    ∃ k, k ≤ s.levelQ ∧ t.tail = (s.remove k).tail ∧ (k = 0 ∨ t.rspQ = BitVec.ofNat 32 k) := by
  obtain h | ⟨k, hk, hw, hq, h⟩ := d.consumer
  · refine ⟨0, Nat.zero_le _, ?_, .inl rfl⟩
    apply BitVec.eq_of_toNat_eq
    rw [h, inv.remove_tail_toNat ha, inc, Nat.add_zero, Nat.mod_eq_of_lt (inv.tail_lt ha)]
  · exact ⟨k, hk, h, .inr (hq.trans (response_ok hw))⟩

/-- Storing a byte and removing others: the others leave the old end, the byte joins the new one (10_state.md R27). -/
theorem State.Inv.content_append_remove (hr : s.roomP ≠ 0) (b : Byte) {k : Nat} (hk : k ≤ s.levelQ) :
    ((s.append b).remove k).content = s.content.drop k ++ [b] := by
  have hkq : k ≤ (s.append b).levelQ := hk.trans (inv.levelQ_le_append ha hr b)
  have inv' := inv.append ha hr b
  rw [State.content_remove (inv'.head_lt ha) (inv'.tail_lt ha) (hkq.trans (inv'.views_bound ha).1),
    State.content_append (inv.head_lt ha) (inv.tail_lt ha) (inv.trueLevel_lt_of_room ha hr),
    List.drop_append_of_le_length]
  simpa using hk.trans (inv.views_bound ha).1

end

/-- Settles O32: both ports' moves read the old pointers, and neither reaches the other's end of the queue. -/
theorem stepRefinesQueue : Obligations.StepRefinesQueue := by
  intro s t inv h hs ht
  have d := step_bufferStep h hs ht
  obtain ⟨k, hk, htail, hq⟩ := d.tail_eq_remove inv hs
  have hlevel : k ≤ s.trueLevel := hk.trans (inv.views_bound hs).1
  have hlen : k ≤ s.content.length := by simpa using hlevel
  obtain ⟨hhead, hmem⟩ | ⟨b, hr, hp, hhead, hmem⟩ := d.producer
  · refine ⟨k, [], ?_, hlen, hq, .inl rfl⟩
    rw [List.append_nil, ← State.content_remove (inv.head_lt hs) (inv.tail_lt hs) hlevel]
    exact State.content_congr d.cap hhead htail hmem d.era
  · refine ⟨k, [b], ?_, hlen, hq, .inr ⟨b, rfl, hp.trans (response_ok (by decide))⟩⟩
    rw [← inv.content_append_remove hs hr b hk]
    exact State.content_congr d.cap hhead htail hmem d.era

/-! ### A command on a buffer -/

/-- What a command does to an allocated buffer, and which command it is. -/
theorem Effect.of_allocated {i : Instr} {s t : State} (e : Effect i s t) (hs : s.allocated = true) :
    SameBlock t s ∨ (i = .free ∧ SameBlock t s.releaseBuffer) ∨
      (∃ k, (i = .drain ∨ ∃ n, i = .consume n) ∧ SameBlock t (s.remove k)) ∨
      ∃ b, (i = .push b ∨ ∃ rest, i = .write (b :: rest)) ∧ SameBlock t (s.append b) := by
  cases e with
  | answered st v hv => exact .inl ((SameBlock.respond _ _ _ _).trans (.issue _ _))
  | created c hi hs' => exact absurd hs (by simp [hs'])
  | released hi => exact .inr (.inl ⟨hi, .respond _ _ _ _⟩)
  | peekedOut off hi => exact .inl ((SameBlock.respond _ _ _ _).trans (.peekFault _))
  | consumed k hi => exact .inr (.inr (.inl ⟨k, hi, .respond _ _ _ _⟩))
  | pushed b hi =>
    exact .inr (.inr (.inr ⟨b, hi, (SameBlock.respond _ _ _ _).trans ((SameBlock.issue s i).append b)⟩))

/-- `ALLOC` with a buffer there answers on port M and does nothing else (40_lifecycle.md R63). -/
theorem execAlloc_of_allocated {c : Idx} {s t : State} (h : exec (.alloc c) s = .next t)
    (hs : s.allocated = true) : ∃ st v, t = s.respond .M st v := by
  cases exec_effect h with
  | answered st v hv => exact ⟨st, v, rfl⟩
  | created c' hi hs' => exact absurd hs (by simp [hs'])
  | released hi => cases hi
  | peekedOut off hi => cases hi
  | consumed k hi => rcases hi with hi | ⟨n, hi⟩ <;> cases hi
  | pushed b hi => rcases hi with hi | ⟨rest, hi⟩ <;> cases hi

/-- Settles O34: of the changes to a buffer only its release writes `CAP`. -/
theorem capacityIsImmutable : Obligations.CapacityIsImmutable := by
  refine ⟨fun s t h hs ht => (step_bufferStep h hs ht).cap, fun i s t h hs hne => ?_, fun c s t h hs => ?_⟩
  · obtain hb | ⟨hi, -⟩ | ⟨k, -, hb⟩ | ⟨b, -, hb⟩ := (exec_effect h).of_allocated hs
    · exact absurd hb.cap hne
    · exact hi
    · exact absurd hb.cap hne
    · exact absurd hb.cap hne
  · obtain ⟨st, v, rfl⟩ := execAlloc_of_allocated h hs
    rfl

/-- Settles O35: the one byte port P stores moves `HEAD` one place. -/
theorem headMovesOnlyByPush : Obligations.HeadMovesOnlyByPush := by
  refine ⟨fun s t h hs ht hne => ?_, fun i s t h hs ht hne => ?_⟩
  · obtain ⟨hhead, -⟩ | ⟨b, hr, hp, hhead, -⟩ := (step_bufferStep h hs ht).producer
    · exact absurd hhead hne
    · have hcap : 0 < s.cap.toNat := by have := State.levelP_lt_of_room hr; omega
      exact ⟨hp.trans (response_ok (by decide)), hhead ▸ pointer_inc_toNat _ _ _ hcap⟩
  · obtain hb | ⟨-, hb⟩ | ⟨k, -, hb⟩ | ⟨b, hi, -⟩ := (exec_effect h).of_allocated hs
    · exact absurd hb.head hne
    · exact absurd (ht.symm.trans hb.allocated) (by simp)
    · exact absurd hb.head hne
    · exact ⟨b, hi⟩

/-- Settles O36: the bytes port Q removes move `TAIL` by their number. -/
theorem tailMovesOnlyByConsume : Obligations.TailMovesOnlyByConsume := by
  refine ⟨fun s t inv h hs ht hne => ?_, fun i s t h hs ht hne => ?_⟩
  · obtain htail | ⟨k, hk, hw, hq, htail⟩ := (step_bufferStep h hs ht).consumer
    · exact absurd htail hne
    · exact ⟨k, inv.levelQ_eq hs ▸ hk, hq.trans (response_ok hw), htail ▸ inv.remove_tail_toNat hs k⟩
  · obtain hb | ⟨-, hb⟩ | ⟨k, hi, -⟩ | ⟨b, -, hb⟩ := (exec_effect h).of_allocated hs
    · exact absurd hb.tail hne
    · exact absurd (ht.symm.trans hb.allocated) (by simp)
    · exact hi
    · exact absurd hb.tail hne

/-! ### The parameters -/

theorem StepEffect.cfg_eq {s t : State} (e : StepEffect s t) : t.cfg = s.cfg := by
  cases e with
  | same h => exact h.cfg
  | created c _ _ _ h => exact h.cfg.trans (s.createBuffer_cfg c)
  | released _ h => exact h.cfg.trans s.releaseBuffer_cfg
  | reset h => exact h.cfg
  | consumed _ _ _ _ _ h => exact h.cfg
  | pushed _ _ _ _ _ h => exact h.cfg
  | both _ _ _ _ _ _ _ _ _ h => exact h.cfg
  | syncedT _ _ _ h => exact h.cfg
  | syncedH _ _ _ h => exact h.cfg

/-- Settles O37: no change that a step makes to the block writes a parameter. -/
theorem parametersNeverChange : Obligations.ParametersNeverChange :=
  fun _ _ h => (step_facts h).effect.cfg_eq

/-! ### `PEEK` -/

/-- An `OK` response with a byte is that byte, zero-extended (30_encoding.md R51). -/
theorem response_ok_byte (b : Byte) : response .ok b.toNat = b.zeroExtend 32 := by
  rw [response_ok (lt_trans b.isLt (by decide))]
  apply BitVec.eq_of_toNat_eq
  simp

/-- A `PEEK` inside the level answers the byte of its cell (42_consumer.md R71). -/
theorem exec_peek_of_lt {off : Idx} {s : State} (ha : s.allocated = true) (ho : off.toNat < s.levelQ)
    (hc : s.cellAt off.toNat < s.cfg.memDepth) :
    exec (.peek off) s = .next { s with rspQ := (s.memRead (s.cellAt off.toNat)).zeroExtend 32 } := by
  simp only [exec, execPeek, whenAllocated, withCell, ha, ho, hc, if_true, answer, State.respond,
    response_ok_byte]

/-- Settles O21: what port Q sees is in the queue, and its cell is one of the `MEM_DEPTH` cells. -/
theorem peekReturnsQueueByte : Obligations.PeekReturnsQueueByte := by
  intro off s inv ha ho
  rw [← inv.levelQ_eq ha] at ho
  refine ⟨s.memRead (s.cellAt off.toNat), State.content_getElem (ho.trans_le (inv.views_bound ha).1), ?_⟩
  exact exec_peek_of_lt ha ho (inv.cell_lt ha (inc_lt (inv.cap_pos ha) _ _))

end Sys2Proof.Machine
end

section
/-! PROOFS. What a port has seen while a buffer stays (20_memory.md R43, R44; 70_reset_and_hazards.md R118, R119): port
P's view of `TAIL` and port Q's view of `HEAD` move only forward, and no step writes a cell of the queue. -/

namespace Sys2Proof.Machine

/-! ### Distances along a path -/

/-- A place on the path to `b` is no farther from `b` than the start of the path. -/
theorem onPath_lvl_end_le {c a x b : Nat} (ha : a < c) (hx : x < c) (hb : b < c)
    (h : onPath c a x b = true) : lvl c b x ≤ lvl c b a := by
  rw [onPath_iff, lvl_eq hx ha, lvl_eq hb ha] at h
  rw [lvl_eq hb hx, lvl_eq hb ha]
  split_ifs at * <;> omega

/-- From `a` over `x` to `b` and from `x` over `y` to `b`: `x` lies on the path from `a` to `y`. -/
theorem onPath_to_later {c a x y b : Nat} (ha : a < c) (hx : x < c) (hy : y < c) (hb : b < c)
    (hax : onPath c a x b = true) (hxy : onPath c x y b = true) : onPath c a x y = true := by
  rw [onPath_iff, lvl_eq hx ha, lvl_eq hb ha] at hax
  rw [onPath_iff, lvl_eq hy hx, lvl_eq hb hx] at hxy
  rw [onPath_iff, lvl_eq hx ha, lvl_eq hy ha]
  split_ifs at * <;> omega

/-! ### The views of a buffer that stays -/

theorem SameBlock.tailViewP {a b : State} (h : SameBlock a b) : a.tailViewP = b.tailViewP := by
  simp [State.tailViewP, h.cfg, h.tail, h.tailSeenP]

theorem SameBlock.headViewQ {a b : State} (h : SameBlock a b) : a.headViewQ = b.headViewQ := by
  simp [State.headViewQ, h.cfg, h.head, h.headSeenQ]

theorem State.tailViewP_sync {s : State} (hv : s.cfg.variant = .sync) : s.tailViewP = s.tail := by
  simp [State.tailViewP, hv]

theorem State.tailViewP_cdc {s : State} (hv : s.cfg.variant = .cdc) : s.tailViewP = s.tailSeenP := by
  simp [State.tailViewP, hv]

theorem State.headViewQ_cdc {s : State} (hv : s.cfg.variant = .cdc) : s.headViewQ = s.headSeenQ := by
  simp [State.headViewQ, hv]

section
variable {s t : State} (inv : s.Inv) (ha : s.allocated = true)
include inv ha

/-- Removing bytes that port Q sees takes port P's view of `TAIL` no farther from `HEAD`. -/
theorem State.Inv.tailViewP_remove_le {k : Nat} (hk : k ≤ s.levelQ) :
    lvl s.cap.toNat s.head.toNat (s.remove k).tailViewP.toNat ≤ s.levelP := by
  cases hv : s.cfg.variant with
  | sync =>
    have hlevel := lvl_inc_tail (inv.head_lt ha) (inv.tail_lt ha) (hk.trans (inv.views_bound ha).1)
    rw [State.tailViewP_sync (s := s.remove k) hv, inv.remove_tail_toNat ha, hlevel]
    exact (Nat.sub_le _ _).trans (inv.views_bound ha).2
  | cdc => rw [State.tailViewP_cdc (s := s.remove k) hv, State.levelP, State.tailViewP_cdc hv]; rfl

/-- `SyncT` takes port P's snapshot no farther from `HEAD` (45_cdc_variant.md R90). -/
theorem State.Inv.tailViewP_syncTail_le {v : Idx} (hv : s.cfg.variant = .cdc)
    (hb : s.between s.tailSeenP v s.tail = true) :
    lvl s.cap.toNat s.head.toNat ({ s with tailSeenP := v } : State).tailViewP.toNat ≤ s.levelP := by
  obtain ⟨-, hlt, hpath⟩ := State.between_iff.mp hb
  obtain ⟨hts, -, hpt, -⟩ := inv.views ha hv
  have hvh : onPath s.cap.toNat s.tailSeenP.toNat v.toNat s.head.toNat = true :=
    onPath_iff.mpr ((onPath_iff.mp hpath).trans (onPath_iff.mp hpt))
  rw [State.levelP, State.tailViewP_cdc hv, State.tailViewP_cdc (s := { s with tailSeenP := v }) hv]
  exact onPath_lvl_end_le hts hlt (inv.head_lt ha) hvh

/-- `SyncH` takes port Q's snapshot no nearer to `TAIL` (R90). -/
theorem State.Inv.levelQ_le_headViewQ_syncHead {v : Idx} (hv : s.cfg.variant = .cdc)
    (hb : s.between s.headSeenQ v s.head = true) :
    s.levelQ ≤ lvl s.cap.toNat ({ s with headSeenQ := v } : State).headViewQ.toNat s.tail.toNat := by
  obtain ⟨-, hlt, hpath⟩ := State.between_iff.mp hb
  obtain ⟨-, hhs, -, hph⟩ := inv.views ha hv
  rw [State.levelQ, State.headViewQ_cdc hv, State.headViewQ_cdc (s := { s with headSeenQ := v }) hv]
  exact onPath_iff.mp (onPath_to_later (inv.tail_lt ha) hhs hlt (inv.head_lt ha) hph hpath)

/-- Port P's view of `TAIL` comes no farther from where `HEAD` was (20_memory.md R44). -/
theorem StepEffect.tailViewP_le_levelP (e : StepEffect s t) (ht : t.allocated = true) :
    lvl s.cap.toNat s.head.toNat t.tailViewP.toNat ≤ s.levelP := by
  cases e with
  | same h => rw [h.tailViewP, State.levelP]
  | created c hs' => exact absurd ha (by simp [hs'])
  | released _ h => exact absurd (ht.symm.trans h.allocated) (by simp)
  | reset h => exact absurd (ht.symm.trans h.allocated) (by simp)
  | consumed k _ hk _ _ h => rw [h.tailViewP]; exact inv.tailViewP_remove_le ha hk
  | pushed b _ _ _ _ h => rw [h.tailViewP]; rfl
  | both b k _ _ _ hk _ _ _ h => rw [h.tailViewP]; exact inv.tailViewP_remove_le ha hk
  | syncedT v hv hb h => rw [h.tailViewP]; exact inv.tailViewP_syncTail_le ha hv hb
  | syncedH v _ _ h => rw [h.tailViewP]; rfl

/-- Port Q's view of `HEAD` comes no nearer to where `TAIL` was (R44). -/
theorem StepEffect.levelQ_le_headViewQ (e : StepEffect s t) (ht : t.allocated = true) :
    s.levelQ ≤ lvl s.cap.toNat t.headViewQ.toNat s.tail.toNat := by
  cases e with
  | same h => rw [h.headViewQ, State.levelQ]
  | created c hs' => exact absurd ha (by simp [hs'])
  | released _ h => exact absurd (ht.symm.trans h.allocated) (by simp)
  | reset h => exact absurd (ht.symm.trans h.allocated) (by simp)
  | consumed k _ _ _ _ h => rw [h.headViewQ]; rfl
  | pushed b _ hr _ _ h => rw [h.headViewQ]; exact inv.levelQ_le_append ha hr b
  | both b k _ hr _ _ _ _ _ h => rw [h.headViewQ]; exact inv.levelQ_le_append ha hr b
  | syncedT v _ _ h => rw [h.headViewQ]; rfl
  | syncedH v hv hb h => rw [h.headViewQ]; exact inv.levelQ_le_headViewQ_syncHead ha hv hb

/-- While `HEAD` stays, the level port P sees does not grow (70_reset_and_hazards.md R118). -/
theorem State.Inv.levelP_le_of_step (h : step s = .next t) (ht : t.allocated = true) (hhead : t.head = s.head) :
    t.levelP ≤ s.levelP := by
  have hlevel : t.levelP = lvl s.cap.toNat s.head.toNat t.tailViewP.toNat := by
    rw [State.levelP, (step_bufferStep h ha ht).cap, hhead]
  rw [hlevel]
  exact (step_facts h).effect.tailViewP_le_levelP inv ha ht

/-- While `TAIL` stays, the level port Q sees does not shrink (R118). -/
theorem State.Inv.levelQ_le_of_step (h : step s = .next t) (ht : t.allocated = true) (htail : t.tail = s.tail) :
    s.levelQ ≤ t.levelQ := by
  have hlevel : t.levelQ = lvl s.cap.toNat t.headViewQ.toNat s.tail.toNat := by
    rw [State.levelQ, (step_bufferStep h ha ht).cap, htail]
  rw [hlevel]
  exact (step_facts h).effect.levelQ_le_headViewQ inv ha ht

end

/-- Settles O42: each port's view of the other's pointer only moves forward, and `CAP` stays. -/
theorem safeBoundsUntilOwnMove : Obligations.SafeBoundsUntilOwnMove := by
  intro s t inv h hs ht
  have inv' := (step_facts h).inv inv
  rw [← inv.levelP_eq hs, ← inv'.levelP_eq ht, ← inv.levelQ_eq hs, ← inv'.levelQ_eq ht]
  exact ⟨inv.levelP_le_of_step hs h ht, inv.levelQ_le_of_step hs h ht⟩

/-! ### The bytes of a buffer that stays -/

section
variable {s t : State} (inv : s.Inv) (ha : s.allocated = true)
include inv ha

/-- `HEAD` names none of the cells of the queue. -/
theorem State.Inv.cellAt_ne_head {i : Nat} (hi : i < s.trueLevel) : s.cellAt i ≠ s.head.toNat := by
  intro he
  have hlevel := inv.trueLevel_lt ha
  have hlast : s.cellAt s.trueLevel = s.head.toNat := inc_lvl (inv.head_lt ha) (inv.tail_lt ha)
  exact hi.ne (inc_inj (inv.tail_lt ha) (hi.trans hlevel) hlevel (he.trans hlast.symm))

/-- A step that keeps the buffer writes no cell of the queue (20_memory.md R43). -/
theorem BufferStep.memRead_cellAt (d : BufferStep s t) {i : Nat} (hi : i < s.trueLevel) :
    t.memRead (s.cellAt i) = s.memRead (s.cellAt i) := by
  obtain ⟨-, hmem⟩ | ⟨b, -, -, -, hmem⟩ := d.producer
  · rw [State.memRead, hmem, d.era, ← State.memRead]
  · rw [State.memRead, hmem, d.era, ← State.memRead_append_other (inv.cellAt_ne_head ha hi) b]
    rfl

end

/-- Settles O43: what port Q sees is in the queue, whose cells no step writes. -/
theorem inspectionIsStable : Obligations.InspectionIsStable := by
  intro s t off inv h hs ht htail hoff
  have d := step_bufferStep h hs ht
  have hlevel : off < s.trueLevel := (inv.levelQ_eq hs ▸ hoff).trans_le (inv.views_bound hs).1
  refine ⟨hoff.trans_le ((safeBoundsUntilOwnMove s t inv h hs ht).2 htail), ?_⟩
  rw [htail, d.cap]
  exact d.memRead_cellAt inv hs hlevel

end Sys2Proof.Machine
end

section
/-! PROOFS. The encoding (30_encoding.md R49 to R61): the decoder on the words of each command and on numbers, and the
response words. -/

namespace Sys2Proof.Machine

/-! ### Command words -/

/-- A word with `RSVD` = 0 is the command word of its `OP` and `ARG` (R49). -/
theorem commandWord_of_fields {w : Word} {op : Nibble} {arg : Idx} (hr : w.reserved = 0#4) (ho : w.top = op)
    (ha : w.low = arg) : commandWord op arg = w := by
  rw [commandWord, ← ho, ← hr, ← ha, Word.pack_fields]

/-- The word of `PUSH b` decodes on port P to `PUSH b` (R50). -/
theorem decode_push (b : Byte) : decode .P (commandWord 0x7#4 (b.zeroExtend 24)) = .ok (.push b) := by
  obtain ⟨hzero, hbyte⟩ := zeroExtend_byte_fields b
  simp only [decode, commandWord, Word.reserved_pack, Word.top_pack, Word.low_pack, byteOperand, hzero, hbyte]
  rfl

/-- The idle word decodes to `NOP` on every port (44_cycle.md R78). -/
theorem decode_zero (x : Port) : decode x 0x00000000#32 = .ok (.nop x) := by cases x <;> rfl

/-- Settles O1: constructor by constructor; only `PUSH`, which `WRITE` repeats, has an operand narrower than `ARG`. -/
theorem decodeOfEncode : Obligations.DecodeOfEncode := by
  intro i hi
  cases i with
  | nop x => cases x <;> rfl
  | alloc c => simp [encode, Instr.expand, Instr.port, decode, commandWord, onPorts]
  | free => rfl
  | level x =>
    cases x with
    | M => cases hi
    | P => rfl
    | Q => rfl
  | room x =>
    cases x with
    | M => cases hi
    | P => rfl
    | Q => rfl
  | peek off => simp [encode, Instr.expand, Instr.port, decode, commandWord, onPorts]
  | consume n => simp [encode, Instr.expand, Instr.port, decode, commandWord, onPorts]
  | push b => exact congrArg (fun r => [r]) (decode_push b)
  | write data =>
    simp only [encode, Instr.expand, Instr.port, List.map_map]
    exact List.map_congr_left fun b _ => decode_push b
  | drain => rfl

/-- Settles O2: each row of the decoder fixes `OP`, `RSVD` and every bit of `ARG` that the command does not carry. -/
theorem decodeAcceptsOnlyEncodings : Obligations.DecodeAcceptsOnlyEncodings := by
  intro x w i h
  have hport := decode_port h
  have hpseudo := decode_isPseudo h
  obtain ⟨hr, hrow⟩ := decode_cases h
  rcases hrow with ⟨ho, ha, rfl⟩ | ⟨ho, -, rfl⟩ | ⟨ho, -, ha, rfl⟩ | ⟨ho, hx, ha, rfl⟩ | ⟨ho, hx, ha, rfl⟩ |
    ⟨ho, -, rfl⟩ | ⟨ho, -, rfl⟩ | ⟨ho, -, ha, rfl⟩
  · exact ⟨rfl, hport, hpseudo, congrArg ([·]) (commandWord_of_fields hr ho ha)⟩
  · exact ⟨rfl, hport, hpseudo, congrArg ([·]) (commandWord_of_fields hr ho rfl)⟩
  · exact ⟨rfl, hport, hpseudo, congrArg ([·]) (commandWord_of_fields hr ho ha)⟩
  · exact ⟨by simpa [Instr.wellFormed] using hx, hport, hpseudo, congrArg ([·]) (commandWord_of_fields hr ho ha)⟩
  · exact ⟨by simpa [Instr.wellFormed] using hx, hport, hpseudo, congrArg ([·]) (commandWord_of_fields hr ho ha)⟩
  · exact ⟨rfl, hport, hpseudo, congrArg ([·]) (commandWord_of_fields hr ho rfl)⟩
  · exact ⟨rfl, hport, hpseudo, congrArg ([·]) (commandWord_of_fields hr ho rfl)⟩
  · exact ⟨rfl, hport, hpseudo,
      congrArg ([·]) (commandWord_of_fields hr ho (zeroExtend_byte_of_fields ha).symm)⟩

/-! ### The decoder in numbers -/

theorem toOption_ok (i : Instr) : (Except.ok i : Except Illegal Instr).toOption = some i := rfl

theorem toOption_error (e : Illegal) : (Except.error e : Except Illegal Instr).toOption = none := rfl

theorem noOperand_toOption (arg : Idx) (i : Instr) :
    (noOperand arg i).toOption = if arg.toNat = 0 then some i else none := by
  have hzero : arg = 0#24 ↔ arg.toNat = 0 := BitVec.toNat_inj.symm
  simp only [noOperand, hzero]
  split_ifs <;> rfl

theorem onPorts_toOption (legal : Bool) (r : Except Illegal Instr) :
    (onPorts legal r).toOption = if legal = true then r.toOption else none := by
  cases legal <;> rfl

theorem byteOperand_toOption (arg : Idx) :
    ((byteOperand arg).map Instr.push).toOption =
      if arg.toNat / 2 ^ 8 = 0 then some (Instr.push (BitVec.ofNat 8 (arg.toNat % 2 ^ 8))) else none := by
  have hhigh : arg.extractLsb' 8 16 = 0#16 ↔ arg.toNat / 2 ^ 8 = 0 := by
    have := arg.isLt
    rw [← BitVec.toNat_inj, BitVec.extractLsb'_toNat, Nat.shiftRight_eq_div_pow, BitVec.toNat_zero]
    omega
  have hbyte : arg.extractLsb' 0 8 = BitVec.ofNat 8 (arg.toNat % 2 ^ 8) := by
    apply BitVec.eq_of_toNat_eq
    simp [BitVec.extractLsb'_toNat]
  simp only [byteOperand, hhigh, hbyte]
  split_ifs <;> rfl

/-- Settles O3: the fields of a word are these numbers, and each row of the decoder is one case of `OP`. -/
theorem decodeTable : Obligations.DecodeTable := by
  intro x w
  have hrs : w.reserved = 0#4 ↔ w.toNat / 2 ^ 24 % 2 ^ 4 = 0 := by
    rw [← BitVec.toNat_inj, Word.reserved_toNat]; rfl
  simp only [← Word.top_toNat, ← Word.low_toNat, ne_eq, ← hrs]
  unfold decode
  by_cases hr : w.reserved = 0#4
  · simp only [ne_eq, hr, not_true_eq_false, if_false]
    split
    case h_9 => simp_all [toOption_error]
    all_goals
      rename_i hop
      simp [hop, noOperand_toOption, onPorts_toOption, byteOperand_toOption, toOption_ok, ite_and]
  · simp [hr, toOption_error]

/-- Settles O4: each word of the table evaluated. -/
theorem specEncodedWords : Obligations.SpecEncodedWords :=
  ⟨decode_zero, rfl, rfl, rfl, rfl, rfl, rfl, rfl, rfl, rfl, rfl, rfl, rfl, fun x => by cases x <;> rfl⟩

/-! ### Response words -/

/-- Settles O5: the fields of a packed word, with bits 27..24 at 0. -/
theorem responseWordFormat : Obligations.ResponseWordFormat := by
  refine ⟨fun st v => ?_, rfl, rfl, rfl, rfl, rfl, rfl⟩
  rw [response, Word.pack_toNat, BitVec.toNat_ofNat, BitVec.toNat_ofNat]
  simp

/-- Responding on a port makes a legal word there and leaves the other ports' words. -/
theorem State.respond_responses {s u : State} {y : Port} {st : Status} {v : Nat} (hv : st = .ok ∨ v = 0)
    (hu : ∀ x, u.rsp x = s.rsp x) :
    legalResponse ((u.respond y st v).rsp y) ∧ ∀ x, x ≠ y → (u.respond y st v).rsp x = s.rsp x :=
  ⟨u.respond_rsp_self y st v ▸ legalResponse_response hv,
    fun x hx => (u.respond_rsp_other hx st v).trans (hu x)⟩

/-- Settles O28: every change a command can make ends with one response on its own port. -/
theorem commandResponsesAreLegal : Obligations.CommandResponsesAreLegal := by
  intro i s t h
  cases exec_effect h with
  | answered st v hv => exact State.respond_responses hv fun x => by cases x <;> simp [State.rsp]
  | created c hi => subst hi; exact State.respond_responses (.inl rfl) fun x => by cases x <;> simp [State.rsp]
  | released hi => subst hi; exact State.respond_responses (.inl rfl) fun x => by cases x <;> simp [State.rsp]
  | peekedOut off hi => subst hi; exact State.respond_responses (.inl rfl) fun x => by cases x <;> rfl
  | consumed k hi =>
    have hp : i.port = .Q := by rcases hi with rfl | ⟨n, rfl⟩ <;> rfl
    exact hp ▸ State.respond_responses (.inl rfl) fun x => by cases x <;> rfl
  | pushed b hi =>
    have hp : i.port = .P := by rcases hi with rfl | ⟨rest, rfl⟩ <;> rfl
    exact hp ▸ State.respond_responses (.inl rfl) fun x => by cases x <;> simp [State.rsp]

end Sys2Proof.Machine
end

section
/-! PROOFS. The pseudo-operations `DRAIN` and `WRITE` as commands (30_encoding.md R60, R61). -/

namespace Sys2Proof.Machine

/-! ### `DRAIN` -/

section
variable {s : State} (inv : s.Inv) (ha : s.allocated = true)
include inv ha

/-- Removing all the bytes that port Q sees takes `TAIL` to its view of `HEAD`. -/
theorem State.Inv.remove_levelQ_tail : (s.remove s.levelQ).tail = s.headViewQ := by
  apply BitVec.eq_of_toNat_eq
  rw [inv.remove_tail_toNat ha, State.levelQ, inc_lvl (inv.headView_lt ha) (inv.tail_lt ha)]

/-- `CONSUME` of any number that is no less than the level takes everything (42_consumer.md R72). -/
theorem State.Inv.consumeBytes_of_levelQ_le {n : Nat} (hn : s.levelQ ≤ n) :
    consumeBytes n s = .next { s with tail := s.headViewQ, rspQ := BitVec.ofNat 32 s.levelQ } := by
  have hlt : s.levelQ < 2 ^ 24 := (inv.levelQ_lt ha).trans s.cap.isLt
  rw [consumeBytes, whenAllocated, if_pos ha, Nat.min_eq_right hn, answer, State.respond, response_ok hlt,
    ← inv.remove_levelQ_tail ha]
  rfl

end

theorem State.headViewQ_eq (s : State) : s.headViewQ = if s.cfg.variant = .sync then s.head else s.headSeenQ := by
  unfold State.headViewQ
  split <;> simp [*]

/-- Settles O23: no level reaches 0xFFFFFF, so `DRAIN` takes everything. -/
theorem drainEmptiesQueue : Obligations.DrainEmptiesQueue := by
  refine ⟨rfl, rfl, fun s => ⟨rfl, fun inv ha => ?_⟩⟩
  have hn : s.levelQ ≤ 0xFFFFFF := by
    have := inv.levelQ_lt ha
    have := s.cap.isLt
    omega
  rw [exec, execDrain, inv.consumeBytes_of_levelQ_le ha hn, State.headViewQ_eq, inv.levelQ_eq ha]

/-! ### The state of the `WRITE` loop

Nothing but `WRITE` reads or writes it, so the other commands commute with setting it. -/

/-- The state with this `WRITE` in progress and this result of the last one. -/
def State.withLoop (s : State) (w : Option Writer) (r : Option Nat) : State :=
  { s with writer := w, writeResult := r }

/-- The bytes of `WRITE` left after its first one are kept with the count so far (30_encoding.md R60). -/
theorem State.issueWrite_cons (s : State) (b : Byte) (rest : List Byte) :
    s.issueWrite (b :: rest) =
      s.withLoop (some { rest := rest, written := (s.writer.map Writer.written).getD 0, awaiting := true })
        s.writeResult := rfl

theorem State.issueWrite_nil (s : State) :
    s.issueWrite [] = s.withLoop none (some ((s.writer.map Writer.written).getD 0)) := rfl

theorem State.withLoop_self (s : State) : s.withLoop s.writer s.writeResult = s := rfl

section
variable (s : State) (w : Option Writer) (r : Option Nat)

@[simp] theorem State.withLoop_cfg : (s.withLoop w r).cfg = s.cfg := rfl
@[simp] theorem State.withLoop_allocated : (s.withLoop w r).allocated = s.allocated := rfl
@[simp] theorem State.withLoop_manager : (s.withLoop w r).manager = s.manager := rfl
@[simp] theorem State.withLoop_consumer : (s.withLoop w r).consumer = s.consumer := rfl
@[simp] theorem State.withLoop_mgmtHold : (s.withLoop w r).mgmtHold = s.mgmtHold := rfl

theorem State.withLoop_respond (x : Port) (st : Status) (v : Nat) :
    (s.withLoop w r).respond x st v = (s.respond x st v).withLoop w r := by cases x <;> rfl

theorem State.withLoop_clearViews : (s.withLoop w r).clearViews = s.clearViews.withLoop w r := by
  unfold State.clearViews
  rw [State.withLoop_cfg]
  split <;> rfl

theorem State.withLoop_createBuffer (c : Idx) :
    (s.withLoop w r).createBuffer c = (s.createBuffer c).withLoop w r := by
  rw [State.createBuffer, State.withLoop_clearViews]; rfl

theorem State.withLoop_releaseBuffer : (s.withLoop w r).releaseBuffer = s.releaseBuffer.withLoop w r := by
  rw [State.releaseBuffer, State.withLoop_clearViews]; rfl

/-- A result with the loop's state set in its next state. -/
def resultWithLoop (w : Option Writer) (r : Option Nat) (res : Result) : Result :=
  andThen res fun t => .next (t.withLoop w r)

theorem answer_withLoop (x : Port) (st : Status) (v : Nat) :
    answer x st v (s.withLoop w r) = resultWithLoop w r (answer x st v s) := by
  rw [answer, State.withLoop_respond]; rfl

theorem raise_withLoop (x : Port) (st : Status) :
    raise x st (s.withLoop w r) = resultWithLoop w r (raise x st s) := answer_withLoop ..

theorem whenAllocated_withLoop (x : Port) (run : Result) :
    whenAllocated x (s.withLoop w r) (resultWithLoop w r run) = resultWithLoop w r (whenAllocated x s run) := by
  rw [whenAllocated, whenAllocated, raise_withLoop, ← apply_ite (resultWithLoop w r)]; rfl

theorem withCell_withLoop (a : Nat) (run : Result) :
    withCell (s.withLoop w r) a (resultWithLoop w r run) = resultWithLoop w r (withCell s a run) := by
  unfold withCell
  rw [State.withLoop_cfg]
  split_ifs <;> rfl

theorem pushByte_withLoop (b : Byte) : pushByte b (s.withLoop w r) = resultWithLoop w r (pushByte b s) := by
  rw [pushByte, pushByte, ← whenAllocated_withLoop, apply_ite (resultWithLoop w r), ← withCell_withLoop]; rfl

theorem consumeBytes_withLoop (n : Nat) :
    consumeBytes n (s.withLoop w r) = resultWithLoop w r (consumeBytes n s) := by
  rw [consumeBytes, consumeBytes, ← whenAllocated_withLoop]; rfl

theorem execAlloc_withLoop (c : Idx) : execAlloc c (s.withLoop w r) = resultWithLoop w r (execAlloc c s) := by
  simp only [execAlloc, raise_withLoop, State.withLoop_createBuffer, answer_withLoop, State.withLoop_allocated,
    State.withLoop_cfg, apply_ite (resultWithLoop w r)]

theorem execFree_withLoop : execFree (s.withLoop w r) = resultWithLoop w r (execFree s) := by
  simp only [execFree, State.withLoop_releaseBuffer, answer_withLoop, whenAllocated_withLoop]

theorem execPeek_withLoop (off : Idx) : execPeek off (s.withLoop w r) = resultWithLoop w r (execPeek off s) := by
  rw [execPeek, execPeek, ← whenAllocated_withLoop, apply_ite (resultWithLoop w r), ← withCell_withLoop]; rfl

theorem execLevel_withLoop (x : Port) : execLevel x (s.withLoop w r) = resultWithLoop w r (execLevel x s) := by
  cases x with
  | M => exact raise_withLoop ..
  | P => exact whenAllocated_withLoop s w r .P (answer .P .ok s.levelP s)
  | Q => exact whenAllocated_withLoop s w r .Q (answer .Q .ok s.levelQ s)

theorem execRoom_withLoop (x : Port) : execRoom x (s.withLoop w r) = resultWithLoop w r (execRoom x s) := by
  cases x with
  | M => exact raise_withLoop ..
  | P => exact whenAllocated_withLoop s w r .P (answer .P .ok s.roomP s)
  | Q => exact whenAllocated_withLoop s w r .Q (answer .Q .ok s.roomQ s)

/-- Every command but `WRITE` commutes with setting the loop's state. -/
theorem exec_withLoop {i : Instr} (hi : ∀ data, i ≠ .write data) :
    exec i (s.withLoop w r) = resultWithLoop w r (exec i s) := by
  cases i with
  | nop x => exact answer_withLoop ..
  | alloc c => exact execAlloc_withLoop ..
  | free => exact execFree_withLoop ..
  | level x => exact execLevel_withLoop ..
  | room x => exact execRoom_withLoop ..
  | peek off => exact execPeek_withLoop ..
  | consume n => exact consumeBytes_withLoop ..
  | push b => exact pushByte_withLoop ..
  | write data => exact absurd rfl (hi data)
  | drain => exact consumeBytes_withLoop ..

end

/-! ### One round of `WRITE` as a command -/

/-- A round of `WRITE` is `PUSH` of its first byte, with the rest and the count so far kept by the producer (R60). -/
theorem exec_write_cons (s : State) (b : Byte) (rest : List Byte) :
    exec (.write (b :: rest)) s =
      resultWithLoop (some { rest := rest, written := (s.writer.map Writer.written).getD 0, awaiting := true })
        s.writeResult (exec (.push b) s) := pushByte_withLoop ..

/-- With room on port P, `PUSH` stores its byte (43_producer.md R74). -/
theorem pushByte_of_room {s : State} (inv : s.Inv) (ha : s.allocated = true) (hr : s.roomP ≠ 0) (b : Byte) :
    pushByte b s = .next ((s.append b).respond .P .ok 1) := by
  rw [pushByte, whenAllocated, if_pos ha, if_neg hr, withCell, if_pos (inv.cell_lt ha (inv.head_lt ha))]
  rfl

/-- `PUSH` completes in every state of the invariant (44_cycle.md R87). -/
theorem pushByte_completes {s : State} (inv : s.Inv) (b : Byte) : ∃ t, pushByte b s = .next t := by
  by_cases ha : s.allocated = true
  · by_cases hr : s.roomP = 0
    · exact ⟨_, by rw [pushByte, whenAllocated, if_pos ha, if_pos hr]; rfl⟩
    · exact ⟨_, pushByte_of_room inv ha hr b⟩
  · exact ⟨_, by rw [pushByte, whenAllocated, if_neg ha]; rfl⟩

/-- A command other than `WRITE` leaves the loop's state. -/
theorem exec_loop {i : Instr} {s t : State} (hi : ∀ data, i ≠ .write data) (h : exec i s = .next t) :
    t.withLoop s.writer s.writeResult = t := by
  have hself := exec_withLoop s s.writer s.writeResult hi
  rw [State.withLoop_self, h] at hself
  exact (Host.Outcome.next.inj hself).symm

/-- Settles O25: a round is `PUSH` of the first byte, which does not see what the producer keeps. -/
theorem writeIssuesOneByteARound : Obligations.WriteIssuesOneByteARound := by
  refine fun s => ⟨rfl, fun b rest => ⟨rfl, fun inv => ?_, fun inv ha hroom => ?_⟩⟩
  · obtain ⟨t, ht⟩ := pushByte_completes inv b
    refine ⟨t, ht, ?_⟩
    rw [exec_write_cons, exec, execPush, ht, ← exec_loop (i := .push b) (fun _ h => by cases h) ht]
    rfl
  · have hr : s.roomP ≠ 0 := by
      have := inv.levelP_eq ha
      unfold State.roomP
      omega
    refine ⟨_, by rw [exec_write_cons, exec, execPush, pushByte_of_room inv ha hr b]; rfl, rfl, ?_⟩
    exact State.content_append (inv.head_lt ha) (inv.tail_lt ha) (inv.trueLevel_lt_of_room ha hr) b

end Sys2Proof.Machine
end

section
/-! PROOFS. The commands of one cycle, and an illegal word among them (30_encoding.md R55, R56, 60_exceptions.md
R103). -/

namespace Sys2Proof.Machine

/-! ### The commands of a cycle -/

/-- The commands of ports M and P, and what port Q does, each reading the start state (44_cycle.md R82). -/
def cyclePorts (dm dp : Except Illegal Instr) (runQ : State → Result) (s : State) : Result :=
  andThen (perform false .M dm s) fun sM =>
  andThen (perform (isManagement dm) .P dp s) fun sP =>
  andThen (runQ s) fun sQ => .next (merge (isManagement dm) s sM sP sQ)

theorem combine_eq_cyclePorts (dm dp dq : Except Illegal Instr) (s : State) :
    combine dm dp dq s = cyclePorts dm dp (perform (isManagement dm) .Q dq) s := rfl

theorem cyclePorts_next_iff {dm dp : Except Illegal Instr} {runQ : State → Result} {s t : State} :
    cyclePorts dm dp runQ s = .next t ↔
      ∃ sM sP sQ, perform false .M dm s = .next sM ∧ perform (isManagement dm) .P dp s = .next sP ∧
        runQ s = .next sQ ∧ merge (isManagement dm) s sM sP sQ = t := by
  constructor
  · intro h
    obtain ⟨sM, hM, h⟩ := andThen_next h
    obtain ⟨sP, hP, h⟩ := andThen_next h
    obtain ⟨sQ, hQ, h⟩ := andThen_next h
    exact ⟨sM, sP, sQ, hM, hP, hQ, Host.Outcome.next.inj h⟩
  · rintro ⟨sM, sP, sQ, hM, hP, hQ, rfl⟩
    rw [cyclePorts, hM, hP, hQ]
    rfl

/-- `NOP` is answered `OK 0` in every cycle (44_cycle.md R80). -/
theorem perform_nop (mgmt : Bool) (x : Port) (s : State) :
    perform mgmt x (.ok (.nop x)) s = .next (s.respond x .ok 0) := by cases mgmt <;> rfl

/-- An illegal word is answered `ILLEGAL 0` in every cycle (60_exceptions.md R103). -/
theorem perform_error (mgmt : Bool) (x : Port) (e : Illegal) (s : State) :
    perform mgmt x (.error e) s = .next (s.respond x .illegal 0) := rfl

/-! ### An illegal word and `NOP` in its place -/

section
variable {e : Illegal} {dm dp dq : Except Illegal Instr} {runQ : State → Result} {s t : State}

theorem cyclePorts_illegal_M (h : cyclePorts (.error e) dp runQ s = .next t) :
    t.rspM = response .illegal 0 ∧
      cyclePorts (.ok (.nop .M)) dp runQ s = .next { t with rspM := response .ok 0 } := by
  obtain ⟨sM, sP, sQ, hM, hP, hQ, rfl⟩ := cyclePorts_next_iff.mp h
  cases (perform_error false .M e s).symm.trans hM
  exact ⟨rfl, cyclePorts_next_iff.mpr ⟨_, sP, sQ, perform_nop false .M s, hP, hQ, rfl⟩⟩

theorem cyclePorts_illegal_P (h : cyclePorts dm (.error e) runQ s = .next t) :
    t.rspP = response .illegal 0 ∧
      cyclePorts dm (.ok (.nop .P)) runQ s = .next { t with rspP := response .ok 0 } := by
  obtain ⟨sM, sP, sQ, hM, hP, hQ, rfl⟩ := cyclePorts_next_iff.mp h
  cases (perform_error _ .P e s).symm.trans hP
  refine ⟨rfl, cyclePorts_next_iff.mpr ⟨sM, _, sQ, hM, perform_nop _ .P s, hQ, ?_⟩⟩
  cases isManagement dm <;> rfl

theorem combine_illegal_Q (h : combine dm dp (.error e) s = .next t) :
    t.rspQ = response .illegal 0 ∧
      combine dm dp (.ok (.nop .Q)) s = .next { t with rspQ := response .ok 0 } := by
  obtain ⟨sM, sP, sQ, hM, hP, hQ, rfl⟩ := cyclePorts_next_iff.mp h
  cases (perform_error _ .Q e s).symm.trans hQ
  refine ⟨rfl, cyclePorts_next_iff.mpr ⟨sM, sP, _, hM, hP, perform_nop _ .Q s, ?_⟩⟩
  cases isManagement dm <;> rfl

end

theorem decode_error_of_illegal {x : Port} {w : Word} (h : (decode x w).toOption = none) :
    ∃ e, decode x w = .error e := by
  cases hd : decode x w with
  | error e => exact ⟨e, rfl⟩
  | ok i => rw [hd] at h; cases h

/-! ### A cycle as a function of the words presented -/

theorem step_of_clk {s : State} {rst : Bool} (hv : s.cfg.variant = .sync) (hm : s.nextMove = .clk rst) :
    step s = syncCycle rst s.popMove := by
  unfold step runMove
  rw [hm, State.popMove_cfg, hv]

theorem step_of_clkP {s : State} (hv : s.cfg.variant = .cdc) (hm : s.nextMove = .clkP) :
    step s = stepP s.popMove := by
  unfold step runMove
  rw [hm, State.popMove_cfg, hv]

/-- Neither the manager's nor the consumer's words are the producer's business. -/
theorem State.observeWrite_queues (s : State) (ms cs : List Word) :
    ({ s with manager := ms, consumer := cs } : State).observeWrite =
      { s.observeWrite with manager := ms, consumer := cs } := by
  unfold State.observeWrite
  (repeat' split) <;> simp_all

theorem State.popProducer_queues (s : State) (ms cs : List Word) :
    ({ s with manager := ms, consumer := cs } : State).popProducer =
      { s.popProducer with manager := ms, consumer := cs } := by
  cases hw : s.writer <;> simp [State.popProducer, hw]

/-- A cycle as a function of the queues of the manager and the consumer (44_cycle.md R78, R82). -/
theorem syncCycle_queues (s : State) (ms cs : List Word) :
    syncCycle false { s with manager := ms, consumer := cs } =
      combine (decode .M (ms.headD idleWord)) s.observeWrite.producerCommand (decode .Q (cs.headD idleWord))
        { s.observeWrite.popProducer with manager := ms.tail, consumer := cs.tail } := by
  simp only [syncCycle, State.observeWrite_queues, State.popProducer_queues]
  rfl

/-- A cycle in which the producer presents a word. -/
theorem syncCycle_word {s : State} (hw : s.writer = none) (w : Word) (acts : List ProducerAct) :
    syncCycle false { s with producer := .word w :: acts } =
      combine s.managerCommand (decode .P w) s.consumerCommand
        { s with manager := s.manager.tail, producer := acts, consumer := s.consumer.tail } := by
  simp only [syncCycle, State.producerCommand, State.popProducer, hw]
  rfl

/-- Settles O12: either way the port's command changes its response alone. -/
theorem illegalWordActsAsNop : Obligations.IllegalWordActsAsNop := by
  intro s t w hv hm
  have hstep : ∀ u : State, u.cfg = s.cfg → u.sched = s.sched → step u = syncCycle false u.popMove := by
    intro u hcfg hsched
    refine step_of_clk (hcfg ▸ hv) ?_
    simpa only [State.nextMove, State.idleMove, hcfg, hsched, hv] using hm
  refine ⟨fun ws hd h => ?_, fun ws hw hd h => ?_, fun ws hd h => ?_⟩
  · obtain ⟨e, he⟩ := decode_error_of_illegal hd
    have hcycle := fun v => (hstep { s with manager := v :: ws } rfl rfl).trans
      (syncCycle_queues s.popMove (v :: ws) s.consumer)
    simp only [hcycle, List.headD_cons, he, decode_zero] at h ⊢
    exact cyclePorts_illegal_M h
  · obtain ⟨e, he⟩ := decode_error_of_illegal hd
    have hcycle := fun v => (hstep { s with producer := .word v :: ws } rfl rfl).trans
      (syncCycle_word (s := s.popMove) hw v ws)
    simp only [hcycle, he, decode_zero] at h ⊢
    exact cyclePorts_illegal_P h
  · obtain ⟨e, he⟩ := decode_error_of_illegal hd
    have hcycle := fun v => (hstep { s with consumer := v :: ws } rfl rfl).trans
      (syncCycle_queues s.popMove s.manager (v :: ws))
    simp only [hcycle, List.headD_cons, he, decode_zero] at h ⊢
    exact combine_illegal_Q h

end Sys2Proof.Machine
end

section
/-! PROOFS. The `WRITE` loop over the steps, in both variants (30_encoding.md R60, 43_producer.md R75,
70_reset_and_hazards.md R115, R117). -/

namespace Sys2Proof.Machine

/-! ### Seeing the response -/

/-- The producer sees a response once. -/
theorem State.observeWrite_observeWrite (s : State) : s.observeWrite.observeWrite = s.observeWrite := by
  apply State.observeWrite_of_not_awaiting
  intro w hw
  unfold State.observeWrite at hw
  (repeat' split at hw) <;> simp_all
  exact hw ▸ rfl

theorem State.observeWrite_popMove (s : State) : s.observeWrite.popMove = s.popMove.observeWrite := by
  unfold State.observeWrite
  rw [State.popMove_writer]
  (repeat' split) <;> simp_all [State.popMove]

theorem State.observeWrite_nextMove (s : State) : s.observeWrite.nextMove = s.nextMove := by
  simp [State.nextMove, State.idleMove]

/-- A cycle of port P, a reset included, begins with the producer seeing its last response (R115). -/
theorem runMove_observeWrite {m : Move} {s : State}
    (hm : (s.cfg.variant = .sync ∧ ∃ rst, m = .clk rst) ∨ (s.cfg.variant = .cdc ∧ (m = .clkP ∨ m = .rstBoth))) :
    runMove m s.observeWrite = runMove m s := by
  unfold runMove
  rw [State.observeWrite_cfg]
  rcases hm with ⟨hv, rst, rfl⟩ | ⟨hv, rfl | rfl⟩
  · simp only [hv, syncCycle, State.observeWrite_observeWrite]
  · simp only [hv, stepP, State.observeWrite_observeWrite]
  · simp only [hv, State.observeWrite_observeWrite]

theorem step_observeWrite {s : State}
    (hm : (s.cfg.variant = .sync ∧ ∃ rst, s.nextMove = .clk rst) ∨
      (s.cfg.variant = .cdc ∧ (s.nextMove = .clkP ∨ s.nextMove = .rstBoth))) :
    step s.observeWrite = step s := by
  rw [step, State.observeWrite_nextMove, State.observeWrite_popMove, runMove_observeWrite (s := s.popMove) hm, step]

theorem stored_iff {r : Word} : stored r = true ↔ r.top = 0#4 ∧ r.low ≠ 0#24 := by simp [stored]

/-- A step of `CDC` that is no cycle of port P leaves the producer as it is, and so does a reset in which the producer
has no response to see (45_cdc_variant.md R98). -/
theorem runMove_cdc_producer {m : Move} {s t : State} (hv : s.cfg.variant = .cdc) (h : runMove m s = .next t)
    (hm : m ≠ .clkP) (hr : m = .rstBoth → s.observeWrite = s) :
    t.writer = s.writer ∧ t.writeResult = s.writeResult ∧ t.producer = s.producer := by
  unfold runMove at h
  rw [hv] at h
  cases m with
  | clk rst => cases h
  | clkP => exact absurd rfl hm
  | clkQ =>
    simp only [stepQ] at h
    split_ifs at h
    obtain ⟨sQ, -, h⟩ := andThen_next h
    cases h
    exact ⟨rfl, rfl, rfl⟩
  | syncT v =>
    simp only [syncTail] at h
    split_ifs at h
    cases h
    exact ⟨rfl, rfl, rfl⟩
  | syncH v =>
    simp only [syncHead] at h
    split_ifs at h
    cases h
    exact ⟨rfl, rfl, rfl⟩
  | rstBoth =>
    cases h
    rw [hr rfl]
    exact ⟨rfl, rfl, rfl⟩
  | rstP => cases h
  | rstQ => cases h

/-- Settles O50: the next cycle of port P is the one after the producer has seen the response. -/
theorem writeLoopFollowsResponses : Obligations.WriteLoopFollowsResponses := by
  refine fun s w hw => ⟨fun ha hm => ⟨fun hr => ?_, fun htop hlow => ⟨fun he => ?_, fun he => ?_⟩⟩,
    fun t hv h hm hr => ?_⟩
  · have hst : stored s.rspP = false := by
      rw [← Bool.not_eq_true, stored_iff]
      tauto
    rw [← step_observeWrite hm, State.observeWrite_of_refused hw ha hst]
  · rw [← step_observeWrite hm, State.observeWrite_of_last hw ha (stored_iff.mpr ⟨htop, hlow⟩) he]
  · rw [← step_observeWrite hm, State.observeWrite_of_stored hw ha (stored_iff.mpr ⟨htop, hlow⟩) he]
  · refine runMove_cdc_producer (s := s.popMove) hv h hm fun hrst => State.observeWrite_of_not_awaiting ?_
    intro w' hw'
    cases hw.symm.trans hw'
    exact hr hrst

/-! ### Issuing a byte -/

/-- The command that a round of `WRITE` issues; one of no bytes issues none, so port P carries `NOP` (R60). -/
def roundCommand : List Byte → Instr
  | [] => .nop .P
  | b :: _ => .push b

theorem roundCommand_ne_write (data : List Byte) : ∀ d, roundCommand data ≠ .write d := by
  cases data <;> intro d h <;> cases h

/-- What a port makes of any command but `WRITE` does not rest on the loop's state. -/
theorem perform_withLoop {mgmt : Bool} {x : Port} {d : Except Illegal Instr} {s t : State}
    (hd : ∀ data, d ≠ .ok (.write data)) (h : perform mgmt x d s = .next t) (w : Option Writer) (r : Option Nat) :
    perform mgmt x d (s.withLoop w r) = .next (t.withLoop w r) := by
  have hset : perform mgmt x d (s.withLoop w r) = resultWithLoop w r (perform mgmt x d s) := by
    cases d with
    | error e => exact raise_withLoop ..
    | ok i =>
      have hi : ∀ data, i ≠ .write data := fun data h => hd data (congrArg _ h)
      have hissue : ∀ u : State, u.issue i = u := by
        cases i with
        | write data => exact absurd rfl (hi data)
        | _ => exact fun _ => rfl
      simp only [perform, hissue, raise_withLoop, exec_withLoop s w r hi, apply_ite (resultWithLoop w r)]
  rw [hset, h]
  rfl

/-- A round of `WRITE` on port P is its command after the producer has kept the rest. -/
theorem perform_write (mgmt : Bool) (data : List Byte) (s : State) :
    perform mgmt .P (.ok (.write data)) s = perform mgmt .P (.ok (roundCommand data)) (s.issueWrite data) := by
  cases data <;> cases mgmt <;> rfl

theorem decode_ne_write {x : Port} {w : Word} (data : List Byte) : decode x w ≠ .ok (.write data) := by
  intro h
  cases decode_isPseudo h

/-- What is done on the other ports is not the loop's business either. -/
def IgnoresLoop (run : State → Result) : Prop :=
  ∀ s t w r, run s = .next t → run (s.withLoop w r) = .next (t.withLoop w r)

theorem ignoresLoop_perform {mgmt : Bool} {x : Port} {d : Except Illegal Instr}
    (hd : ∀ data, d ≠ .ok (.write data)) : IgnoresLoop (perform mgmt x d) :=
  fun _ _ w r h => perform_withLoop hd h w r

theorem ignoresLoop_next : IgnoresLoop .next := fun _ _ _ _ h => by cases h; rfl

/-- Two states that port P's agent brings to a cycle: `u` with the word of a round of `WRITE data`, `s` with the round
itself. They differ in the loop's state alone, and after the round `s` has the loop's state `w`, `r`. -/
structure RoundAsWord (u s : State) (data : List Byte) (w : Option Writer) (r : Option Nat) : Prop where
  seenByWord : u.observeWrite = u
  seenByRound : s.observeWrite = s
  word : u.producerCommand = .ok (roundCommand data)
  round : s.producerCommand = .ok (.write data)
  popped : s.popProducer = u.popProducer.withLoop s.writer s.writeResult
  issued : s.popProducer.issueWrite data = u.popProducer.withLoop w r

/-- The commands of the cycle: only port P's own state tells the round from its word. -/
theorem cyclePorts_write {dm : Except Illegal Instr} {data : List Byte} {runQ : State → Result} {u s t : State}
    {w₀ w : Option Writer} {r₀ r : Option Nat} (hdm : ∀ data, dm ≠ .ok (.write data)) (hQ : IgnoresLoop runQ)
    (hs : s = u.withLoop w₀ r₀) (hi : s.issueWrite data = u.withLoop w r)
    (h : cyclePorts dm (.ok (roundCommand data)) runQ u = .next t) :
    cyclePorts dm (.ok (.write data)) runQ s = .next (t.withLoop w r) ∧
      t.withLoop u.writer u.writeResult = t := by
  have hround : ∀ d, (Except.ok (roundCommand data) : Except Illegal Instr) ≠ .ok (.write d) :=
    fun d h => roundCommand_ne_write data d (Except.ok.inj h)
  obtain ⟨sM, sP, sQ, hM, hP, hQ', rfl⟩ := cyclePorts_next_iff.mp h
  constructor
  · have hPw := perform_withLoop hround hP w r
    rw [← hi, ← perform_write] at hPw
    refine cyclePorts_next_iff.mpr ⟨_, _, _, hs ▸ perform_withLoop hdm hM w₀ r₀, hPw, hs ▸ hQ _ _ w₀ r₀ hQ', ?_⟩
    rw [hs]
    cases isManagement dm <;> rfl
  · have hself := hP.symm.trans (perform_withLoop hround hP u.writer u.writeResult)
    rw [Host.Outcome.next.inj hself]
    rfl

section
variable {u s t : State} {data : List Byte} {w : Option Writer} {r : Option Nat}

theorem RoundAsWord.managerCommand (h : RoundAsWord u s data w r) : s.managerCommand = u.managerCommand := by
  have := congrArg State.manager h.popped
  rw [State.withLoop_manager, State.popProducer_manager, State.popProducer_manager] at this
  rw [State.managerCommand, this, State.managerCommand]

theorem RoundAsWord.consumerCommand (h : RoundAsWord u s data w r) : s.consumerCommand = u.consumerCommand := by
  have := congrArg State.consumer h.popped
  rw [State.withLoop_consumer, State.popProducer_consumer, State.popProducer_consumer] at this
  rw [State.consumerCommand, this, State.consumerCommand]

/-- In `SYNC`, a reset included, in which the byte is lost (70_reset_and_hazards.md R111). -/
theorem RoundAsWord.syncCycle {rst : Bool} (h : RoundAsWord u s data w r) (ht : syncCycle rst u = .next t) :
    Machine.syncCycle rst s = .next (t.withLoop w r) ∧ t.withLoop u.writer u.writeResult = t := by
  have hissue : ∀ v : State, v.popManager.popConsumer.issueWrite data =
      (v.issueWrite data).popManager.popConsumer := by intro v; cases data <;> rfl
  have hissued : s.popProducer.popManager.popConsumer.issueWrite data =
      u.popProducer.popManager.popConsumer.withLoop w r := by rw [hissue, h.issued]; rfl
  simp only [Machine.syncCycle, h.seenByWord, h.seenByRound, h.word, h.round, h.managerCommand,
    h.consumerCommand] at ht ⊢
  cases rst with
  | true =>
    have hkept : ∀ v : State, v.issueCommand (.ok (roundCommand data)) = v := by intro v; cases data <;> rfl
    rw [if_pos rfl, hkept] at ht
    cases ht
    rw [if_pos rfl, State.issueCommand, State.issue, hissued]
    exact ⟨rfl, by simp [State.withLoop, State.resetRegisters]⟩
  | false =>
    rw [if_neg (by decide), combine_eq_cyclePorts] at ht ⊢
    obtain ⟨hcycle, hloop⟩ := cyclePorts_write (fun _ => decode_ne_write _)
      (ignoresLoop_perform fun _ => decode_ne_write _) (by rw [h.popped]; rfl) hissued ht
    exact ⟨hcycle, by simpa using hloop⟩

/-- `StepP` by the commands of its cycle (45_cdc_variant.md R90). -/
theorem stepP_next_iff :
    stepP s = .next t ↔
      (isManagement s.observeWrite.managerCommand && decide (0 < s.mgmtHold)) = false ∧
      ∃ t₀, cyclePorts s.observeWrite.managerCommand s.observeWrite.producerCommand .next
          s.observeWrite.popProducer.popManager = .next t₀ ∧
        t₀.startQuiet (isManagement s.observeWrite.managerCommand) = t := by
  simp only [stepP, State.popManager_mgmtHold, State.popProducer_mgmtHold, State.observeWrite_mgmtHold]
  split_ifs with hq
  · simp [hq]
  · constructor
    · intro h
      obtain ⟨sM, hM, h⟩ := andThen_next h
      obtain ⟨sP, hP, h⟩ := andThen_next h
      exact ⟨by simpa using hq, _, cyclePorts_next_iff.mpr ⟨sM, sP, _, hM, hP, rfl, rfl⟩, Host.Outcome.next.inj h⟩
    · rintro ⟨-, t₀, h, rfl⟩
      obtain ⟨sM, sP, sQ, hM, hP, hQ, rfl⟩ := cyclePorts_next_iff.mp h
      cases hQ
      rw [hM, hP]
      rfl

theorem RoundAsWord.stepP (h : RoundAsWord u s data w r) (ht : stepP u = .next t) :
    Machine.stepP s = .next (t.withLoop w r) ∧ t.withLoop u.writer u.writeResult = t := by
  have hissue : ∀ v : State, v.popManager.issueWrite data = (v.issueWrite data).popManager := by
    intro v; cases data <;> rfl
  have hhold : s.mgmtHold = u.mgmtHold := by simpa using congrArg State.mgmtHold h.popped
  rw [stepP_next_iff, h.seenByWord, h.word] at ht
  obtain ⟨hq, t₀, ht, rfl⟩ := ht
  obtain ⟨hcycle, hloop⟩ := cyclePorts_write (fun _ => decode_ne_write _) ignoresLoop_next
    (s := s.popProducer.popManager) (by rw [h.popped]; rfl) (by rw [hissue, h.issued]; rfl) ht
  constructor
  · rw [stepP_next_iff, h.seenByRound, h.round, h.managerCommand, hhold]
    exact ⟨hq, _, hcycle, rfl⟩
  · simpa [State.withLoop, State.startQuiet] using congrArg (State.startQuiet · (isManagement u.managerCommand)) hloop

/-- A cycle of port P, in either variant. -/
theorem step_round (ht : step u = .next t)
    (hm : (s.cfg.variant = .sync ∧ ∃ rst, s.nextMove = .clk rst) ∨ (s.cfg.variant = .cdc ∧ s.nextMove = .clkP))
    (hcfg : u.cfg = s.cfg) (hmove : u.nextMove = s.nextMove) (h : RoundAsWord u.popMove s.popMove data w r) :
    step s = .next (t.withLoop w r) ∧ t.withLoop u.writer u.writeResult = t := by
  rcases hm with ⟨hv, rst, hm⟩ | ⟨hv, hm⟩
  · rw [step_of_clk (hcfg ▸ hv) (hmove.trans hm)] at ht
    rw [step_of_clk hv hm]
    exact h.syncCycle ht
  · rw [step_of_clkP (hcfg ▸ hv) (hmove.trans hm)] at ht
    rw [step_of_clkP hv hm]
    exact h.stepP ht

end

theorem State.popProducer_of_writer {s : State} {w : Writer} (hw : s.writer = some w) : s.popProducer = s := by
  simp [State.popProducer, hw]

theorem State.popProducer_of_no_writer {s : State} (hw : s.writer = none) :
    s.popProducer = { s with producer := s.producer.tail } := by
  simp [State.popProducer, hw]

/-- A `WRITE` that has counted its last response goes on with its next byte. -/
theorem roundAsWord_resume {s : State} {b : Byte} {rest : List Byte} {n : Nat} {word : Word}
    (hs : s.writer = some { rest := b :: rest, written := n, awaiting := false })
    (hword : decode .P word = .ok (.push b)) :
    RoundAsWord { s with writer := none, producer := .word word :: s.producer } s (b :: rest)
      (some { rest := rest, written := n, awaiting := true }) s.writeResult where
  seenByWord := State.observeWrite_of_not_awaiting (by simp)
  seenByRound := State.observeWrite_of_not_awaiting (by simp [hs])
  word := hword
  round := by simp [State.producerCommand, hs]
  popped := by rw [State.popProducer_of_writer hs, State.popProducer_of_no_writer rfl]; rfl
  issued := by
    rw [State.popProducer_of_writer hs, State.popProducer_of_no_writer rfl, State.issueWrite_cons, hs]
    rfl

/-- The producer begins a `WRITE`. -/
theorem roundAsWord_begin {s : State} {data : List Byte} {acts : List ProducerAct} {word : Word}
    (hs : s.writer = none) (hp : s.producer = .write data :: acts)
    (hword : decode .P word = .ok (roundCommand data)) :
    RoundAsWord { s with producer := .word word :: acts } s data (s.issueWrite data).writer
      (s.issueWrite data).writeResult where
  seenByWord := State.observeWrite_of_not_awaiting (by simp [hs])
  seenByRound := State.observeWrite_of_not_awaiting (by simp [hs])
  word := by simp [State.producerCommand, hs, hword]
  round := by simp [State.producerCommand, hs, hp]
  popped := by
    rw [State.popProducer_of_no_writer hs,
      State.popProducer_of_no_writer (s := { s with producer := .word word :: acts }) hs, hp]
    rfl
  issued := by
    rw [State.popProducer_of_no_writer hs,
      State.popProducer_of_no_writer (s := { s with producer := .word word :: acts }) hs, hp]
    cases data <;> rfl

/-- Settles O51: a round differs from its word in what the producer keeps, which no other command sees. -/
theorem writeIssuesItsBytesAsPushes : Obligations.WriteIssuesItsBytesAsPushes := by
  have hpush : ∀ {b : Byte} {word : Word}, encode (.push b) = [word] → decode .P word = .ok (.push b) := by
    intro b word h
    cases h
    exact decode_push b
  refine fun s hm => ⟨fun b rest n word t hword hs ht => ?_, fun b rest acts word t hword hs hp ht => ?_,
    fun acts t hs hp ht => ?_⟩
  · obtain ⟨hstep, hloop⟩ := step_round ht hm rfl rfl (roundAsWord_resume (s := s.popMove) hs (hpush hword))
    rw [hstep, ← hloop]
    rfl
  · obtain ⟨hstep, hloop⟩ := step_round ht hm rfl rfl (roundAsWord_begin (s := s.popMove) hs hp (hpush hword))
    rw [hstep, ← hloop, State.issueWrite_cons, State.popMove_writer, hs]
    rfl
  · obtain ⟨hstep, hloop⟩ := step_round ht hm rfl rfl (roundAsWord_begin (s := s.popMove) hs hp (decode_zero .P))
    rw [hstep, ← hloop, State.issueWrite_nil, State.popMove_writer, hs]
    rfl

end Sys2Proof.Machine
end

section
/-! PROOFS. `NOP`, `ALLOC` and `FREE` (40_lifecycle.md R62 to R64): what each answers, the buffer that `ALLOC` creates
and the one that `FREE` releases. -/

namespace Sys2Proof.Machine

/-! ### `NOP` -/

/-- `ARG` alone, zero-extended, is the word of `OP` 0 (30_encoding.md R49). -/
theorem zeroExtend_eq_commandWord (arg : Idx) : arg.zeroExtend 32 = commandWord 0x0#4 arg := by
  apply BitVec.eq_of_toNat_eq
  rw [commandWord, Word.pack_toNat, BitVec.toNat_setWidth_of_le (by decide)]
  simp

/-- The row of `OP` 0 in the decoder (30_encoding.md R57). -/
theorem decode_commandWord_zero (x : Port) (arg : Idx) :
    decode x (commandWord 0x0#4 arg) = noOperand arg (.nop x) := by
  simp [decode, commandWord]

/-- Settles O15: `OP` 0 has no operand, and `NOP` is its response alone. -/
theorem nopAnswersOk : Obligations.NopAnswersOk := by
  refine ⟨fun _ => rfl, fun x arg harg => ?_, fun _ => ⟨rfl, rfl, rfl⟩⟩
  rw [zeroExtend_eq_commandWord, decode_commandWord_zero, noOperand, if_neg harg, toOption_error]

/-! ### The snapshots of a new or a released buffer -/

/-- The only registers that clearing the views writes, as R63 and R64 list them. -/
theorem State.clearViews_eq (s : State) : s.clearViews =
    { s with
      tailSeenP := if s.cfg.variant = .cdc then 0#24 else s.tailSeenP
      headSeenQ := if s.cfg.variant = .cdc then 0#24 else s.headSeenQ } := by
  unfold State.clearViews
  split <;> simp [*]

/-! ### `FREE` -/

/-- Settles O17: without a buffer the refusal alone; with one, what releasing it writes. -/
theorem freeReleasesBuffer : Obligations.FreeReleasesBuffer := by
  refine ⟨rfl, fun s => ⟨fun ha => ?_, fun ha => ?_⟩⟩
  · rw [exec, execFree, whenAllocated, if_neg (by simp [ha])]
    rfl
  · rw [exec, execFree, whenAllocated, if_pos ha, State.releaseBuffer, State.clearViews_eq]
    rfl

/-! ### The outcomes of `ALLOC` -/

section
variable {c : Idx} {s : State}

theorem exec_alloc_zero : exec (.alloc 0#24) s = .next (s.respond .M .invalidCapacity 0) := rfl

theorem exec_alloc_oom (h0 : c ≠ 0#24) (h : s.allocated = true ∨ s.cfg.memDepth < c.toNat) :
    exec (.alloc c) s = .next (s.respond .M .oom 0) := by
  rw [exec, execAlloc, if_neg h0]
  by_cases ha : s.allocated = true
  · rw [if_pos ha]
    rfl
  · rw [if_neg ha, if_pos (h.resolve_left ha)]
    rfl

theorem exec_alloc_creates (h0 : c ≠ 0#24) (ha : s.allocated = false) (hd : c.toNat ≤ s.cfg.memDepth) :
    exec (.alloc c) s = .next ((s.createBuffer c).respond .M .ok 0) := by
  rw [exec, execAlloc, if_neg h0, if_neg (by simp [ha]), if_neg (by omega)]
  rfl

end

theorem encode_alloc_toNat (c : Idx) : (encode (.alloc c)).map BitVec.toNat = [0x10000000 + c.toNat] := by
  simp [encode, commandWord, Word.pack_toNat]

/-! ### The created buffer -/

/-- The zero fill: the cells below the capacity read 0, the others as before. -/
theorem State.memRead_createBuffer (s : State) (c : Idx) (a : Nat) :
    (s.createBuffer c).memRead a = if a < c.toNat then 0#8 else s.memRead a := by
  simp only [State.memRead, State.createBuffer_mem, State.createBuffer_era, Memory.get_zeroFill]
  split_ifs <;> rfl

/-- Port P sees a new buffer empty, in either variant. -/
theorem State.tailViewP_createBuffer (s : State) (c : Idx) : (s.createBuffer c).tailViewP = 0#24 := by
  cases hv : s.cfg.variant with
  | sync => simp [State.tailViewP_sync, hv]
  | cdc => simp [State.tailViewP_cdc, State.clearViews_tailSeenP, hv]

/-- `PUSH` without room answers `OK 0` and stores nothing (43_producer.md R74). -/
theorem exec_push_of_no_room {s : State} (ha : s.allocated = true) (hr : s.roomP = 0) (b : Byte) :
    exec (.push b) s = .next { s with rspP := 0x00000000#32 } := by
  rw [exec, execPush, pushByte, whenAllocated, if_pos ha, if_pos hr]
  rfl

/-- A buffer of capacity 1 with both pointers at 0 is empty and full at once (90_conflicts.md C7). -/
theorem State.empty_and_full_of_cap_one {s : State} (hc : s.cap = 1#24) (hh : s.head = 0#24)
    (hv : s.tailViewP = 0#24) : s.outputs.pEmpty = true ∧ s.outputs.pFull = true ∧ s.roomP = 0 := by
  simp [State.pEmpty, State.pFull, State.roomP, inc, hc, hh, hv]

/-- Settles O16: the three outcomes of `ALLOC`, and the fields and cells of the created buffer. -/
theorem allocCreatesBuffer : Obligations.AllocCreatesBuffer := by
  refine fun c s => ⟨encode_alloc_toNat c, ?_, exec_alloc_oom, fun h0 ha hd => ?_⟩
  · rintro rfl
    exact exec_alloc_zero
  · have hfill := s.memRead_createBuffer c
    refine ⟨_, exec_alloc_creates h0 ha hd, s.createBuffer_allocated c, s.createBuffer_cap c,
      s.createBuffer_head c, s.createBuffer_tail c, rfl, fun hv => ?_, fun hv => ?_,
      fun a hlt => (hfill a).trans (if_pos hlt), fun a hle => (hfill a).trans (if_neg (by omega)),
      fun h1 => ?_, ?_⟩
    · simp [State.clearViews_eq, hv]
    · simp [State.clearViews_eq, hv]
    · obtain ⟨hempty, hfull, hroom⟩ := State.empty_and_full_of_cap_one
        ((s.createBuffer_cap c).trans h1) (s.createBuffer_head c) (s.tailViewP_createBuffer c)
      exact ⟨hempty, hfull, exec_push_of_no_room (s.createBuffer_allocated c) hroom⟩
    · simp

end Sys2Proof.Machine
end

section
/-! PROOFS. `LEVEL` and `ROOM`, and the empty and full outputs (41_queries.md R65 to R70): each port's answers and
comparators in the level it sees. -/

namespace Sys2Proof.Machine

/-! ### The two ends of a level -/

/-- Empty: `(h − t) mod C = 0` exactly when the pointers agree (R68). -/
theorem lvl_eq_zero_iff {c h t : Nat} (hh : h < c) (ht : t < c) : lvl c h t = 0 ↔ h = t := by
  rw [lvl_eq hh ht]
  split_ifs <;> omega

/-- Full: `(h − t) mod C = C − 1` exactly when `(h + 1) mod C = t` (R68). -/
theorem lvl_eq_pred_iff {c h t : Nat} (hh : h < c) (ht : t < c) : lvl c h t = c - 1 ↔ inc c h 1 = t := by
  rw [lvl_eq hh ht, inc_eq hh (by omega)]
  split_ifs <;> omega

/-! ### Views, level and room -/

theorem State.tailViewP_toNat (s : State) :
    s.tailViewP.toNat = if s.cfg.variant = .sync then s.tail.toNat else s.tailSeenP.toNat := by
  unfold State.tailViewP
  split <;> simp [*]

theorem State.headViewQ_toNat (s : State) :
    s.headViewQ.toNat = if s.cfg.variant = .sync then s.head.toNat else s.headSeenQ.toNat := by
  rw [State.headViewQ_eq, apply_ite BitVec.toNat]

section
variable {s : State} (inv : s.Inv) (ha : s.allocated = true)
include inv ha

/-- One place besides the level and the room stays unused (R65). -/
theorem State.Inv.levelP_add_roomP : s.levelP + s.roomP + 1 = s.cap.toNat := by
  have := inv.levelP_lt ha
  unfold State.roomP
  omega

theorem State.Inv.levelQ_add_roomQ : s.levelQ + s.roomQ + 1 = s.cap.toNat := by
  have := inv.levelQ_lt ha
  unfold State.roomQ
  omega

end

/-! ### A query as a response -/

/-- Without a buffer a command that needs one answers `NOT_ALLOCATED` and does nothing (60_exceptions.md R101). -/
theorem whenAllocated_of_not_allocated {s : State} (ha : s.allocated = false) (x : Port) (run : Result) :
    whenAllocated x s run = .next (s.respond x .notAllocated 0) := by
  rw [whenAllocated, if_neg (by simp [ha])]
  rfl

/-- With a buffer a query is its `OK` response alone. -/
theorem whenAllocated_answer_ok {s : State} (ha : s.allocated = true) (x : Port) (v : Nat) :
    whenAllocated x s (answer x .ok v s) = .next (s.respond x .ok v) := by
  rw [whenAllocated, if_pos ha, answer]

theorem State.respond_P_ok {v : Nat} (hv : v < 2 ^ 24) (s : State) :
    s.respond .P .ok v = { s with rspP := BitVec.ofNat 32 v } := by
  rw [State.respond, response_ok hv]

theorem State.respond_Q_ok {v : Nat} (hv : v < 2 ^ 24) (s : State) :
    s.respond .Q .ok v = { s with rspQ := BitVec.ofNat 32 v } := by
  rw [State.respond, response_ok hv]

/-- Settles O18: the level each port sees is below `CAP`, so it fits the response. -/
theorem levelAnswersPortLevel : Obligations.LevelAnswersPortLevel := by
  refine ⟨rfl, rfl, rfl, fun s => ⟨fun ha => ⟨?_, ?_⟩, fun inv ha => ?_⟩⟩
  · exact whenAllocated_of_not_allocated ha .P _
  · exact whenAllocated_of_not_allocated ha .Q _
  · have hP := inv.levelP_lt ha
    have hQ := inv.levelQ_lt ha
    have hcap := s.cap.isLt
    rw [← inv.levelP_eq ha, ← inv.levelQ_eq ha, ← State.respond_P_ok (hP.trans hcap) s,
      ← State.respond_Q_ok (hQ.trans hcap) s]
    exact ⟨whenAllocated_answer_ok ha .P _, whenAllocated_answer_ok ha .Q _, Nat.le_pred_of_lt hP,
      Nat.le_pred_of_lt hQ⟩

/-- Settles O19: the room each port sees is what its level leaves of `CAP`, less one place. -/
theorem roomAnswersPortRoom : Obligations.RoomAnswersPortRoom := by
  refine ⟨rfl, rfl, rfl, fun s => ⟨fun ha => ⟨?_, ?_⟩, fun inv ha => ?_⟩⟩
  · exact whenAllocated_of_not_allocated ha .P _
  · exact whenAllocated_of_not_allocated ha .Q _
  · have hP := inv.levelP_add_roomP ha
    have hQ := inv.levelQ_add_roomQ ha
    have hcap := s.cap.isLt
    refine ⟨s.roomP, s.roomQ, inv.levelP_eq ha ▸ hP, inv.levelQ_eq ha ▸ hQ, ?_⟩
    rw [← State.respond_P_ok (by omega) s, ← State.respond_Q_ok (by omega) s]
    exact ⟨whenAllocated_answer_ok ha .P _, whenAllocated_answer_ok ha .Q _⟩

/-! ### The comparators -/

/-- Neither side is invited to act without a buffer (R68). -/
theorem State.outputs_of_not_allocated {s : State} (ha : s.allocated = false) :
    s.outputs.pEmpty = true ∧ s.outputs.pFull = true ∧ s.outputs.qEmpty = true ∧ s.outputs.qFull = true := by
  simp [State.pEmpty, State.pFull, State.qEmpty, State.qFull, ha]

section
variable {s : State} (ha : s.allocated = true)
include ha

theorem State.pEmpty_iff : s.pEmpty = true ↔ s.head.toNat = s.tailViewP.toNat := by simp [State.pEmpty, ha]

theorem State.pFull_iff : s.pFull = true ↔ inc s.cap.toNat s.head.toNat 1 = s.tailViewP.toNat := by
  simp [State.pFull, ha]

theorem State.qEmpty_iff : s.qEmpty = true ↔ s.headViewQ.toNat = s.tail.toNat := by simp [State.qEmpty, ha]

theorem State.qFull_iff : s.qFull = true ↔ inc s.cap.toNat s.headViewQ.toNat 1 = s.tail.toNat := by
  simp [State.qFull, ha]

end

section
variable {s : State} (inv : s.Inv) (ha : s.allocated = true)
include inv ha

theorem State.Inv.pEmpty_iff_levelP : s.pEmpty = true ↔ s.levelP = 0 :=
  (State.pEmpty_iff ha).trans (lvl_eq_zero_iff (inv.head_lt ha) (inv.tailView_lt ha)).symm

theorem State.Inv.pFull_iff_levelP : s.pFull = true ↔ s.levelP = s.cap.toNat - 1 :=
  (State.pFull_iff ha).trans (lvl_eq_pred_iff (inv.head_lt ha) (inv.tailView_lt ha)).symm

theorem State.Inv.qEmpty_iff_levelQ : s.qEmpty = true ↔ s.levelQ = 0 :=
  (State.qEmpty_iff ha).trans (lvl_eq_zero_iff (inv.headView_lt ha) (inv.tail_lt ha)).symm

theorem State.Inv.qFull_iff_levelQ : s.qFull = true ↔ s.levelQ = s.cap.toNat - 1 :=
  (State.qFull_iff ha).trans (lvl_eq_pred_iff (inv.headView_lt ha) (inv.tail_lt ha)).symm

theorem State.Inv.pFull_iff_roomP : s.pFull = true ↔ s.roomP = 0 := by
  have := inv.levelP_add_roomP ha
  rw [inv.pFull_iff_levelP ha]
  omega

end

/-- Settles O39: each comparator is one end of the level that its port sees. -/
theorem comparatorsMatchLevels : Obligations.ComparatorsMatchLevels := by
  refine fun s => ⟨rfl, State.outputs_of_not_allocated, fun inv ha => ?_⟩
  intro tv hv
  have htv : s.tailViewP.toNat = tv := s.tailViewP_toNat
  have hhv : s.headViewQ.toNat = hv := s.headViewQ_toNat
  rw [← htv, ← hhv, ← inv.levelP_eq ha, ← inv.levelQ_eq ha]
  exact ⟨State.pEmpty_iff ha, inv.pEmpty_iff_levelP ha, State.pFull_iff ha, inv.pFull_iff_levelP ha,
    State.qEmpty_iff ha, inv.qEmpty_iff_levelQ ha, State.qFull_iff ha, inv.qFull_iff_levelQ ha⟩

/-- `PUSH` on a buffer answers `OK 0` exactly when port P sees no room (43_producer.md R74). -/
theorem exec_push_rspP_eq_zero_iff {s : State} (inv : s.Inv) (ha : s.allocated = true) (b : Byte) :
    ∃ t, exec (.push b) s = .next t ∧ (t.rspP = 0x00000000#32 ↔ s.roomP = 0) := by
  by_cases hr : s.roomP = 0
  · exact ⟨_, exec_push_of_no_room ha hr b, by simp [hr]⟩
  · have hone : response .ok 1 ≠ 0x00000000#32 := by decide
    exact ⟨_, pushByte_of_room inv ha hr b, by simp [hr, hone]⟩

/-- Settles O40: `p_full` and an `OK 0` of `PUSH` both say that `room_P` is 0. -/
theorem pushFailsExactlyWhenFull : Obligations.PushFailsExactlyWhenFull := by
  intro b s inv ha
  have hfull : s.outputs.pFull = true ↔ s.roomP = 0 := inv.pFull_iff_roomP ha
  obtain ⟨t, ht, hzero⟩ := exec_push_rspP_eq_zero_iff inv ha b
  rw [← inv.levelP_eq ha]
  exact ⟨t, ht, hzero.trans hfull.symm, hfull⟩

/-- Settles O41: with capacity 1 the levels 0 and `C − 1` are the same, and there is no other. -/
theorem capacityOneIsEmptyAndFull : Obligations.CapacityOneIsEmptyAndFull := by
  intro s inv ha hc
  have hcap : s.cap.toNat = 1 := by rw [hc]; rfl
  have hP := inv.levelP_lt ha
  have hQ := inv.levelQ_lt ha
  exact ⟨(inv.pEmpty_iff_levelP ha).mpr (by omega), (inv.pFull_iff_levelP ha).mpr (by omega),
    (inv.qEmpty_iff_levelQ ha).mpr (by omega), (inv.qFull_iff_levelQ ha).mpr (by omega)⟩

end Sys2Proof.Machine
end

section
/-! PROOFS. `PEEK` and `CONSUME` (42_consumer.md R71, R72): what each answers and writes, in the level that port Q
sees. -/

namespace Sys2Proof.Machine

/-- The number of a command word: `RSVD` is 0 (30_encoding.md R49). -/
theorem commandWord_toNat (op : Nibble) (arg : Idx) :
    (commandWord op arg).toNat = op.toNat * 2 ^ 28 + arg.toNat := by
  simp [commandWord, Word.pack_toNat]

theorem encode_peek_toNat (off : Idx) : (encode (.peek off)).map BitVec.toNat = [0x50000000 + off.toNat] := by
  simp [encode, commandWord_toNat]

theorem encode_consume_toNat (n : Idx) : (encode (.consume n)).map BitVec.toNat = [0x60000000 + n.toNat] := by
  simp [encode, commandWord_toNat]

/-! ### `PEEK` at or past the level -/

/-- At or past the level `PEEK` answers the next free byte and records the model fault (42_consumer.md R71). -/
theorem exec_peek_of_le {off : Idx} {s : State} (ha : s.allocated = true) (ho : s.levelQ ≤ off.toNat) :
    exec (.peek off) s = .next { s.peekFault with rspQ := (Config.peekByte s.draws).zeroExtend 32 } := by
  rw [exec, execPeek, whenAllocated, if_pos ha, if_neg (Nat.not_lt.mpr ho), answer, State.respond,
    response_ok_byte]

/-- Settles O20: below the level the cell is one of the `MEM_DEPTH` cells; at or past it the byte is the free one. -/
theorem peekReadsRingPosition : Obligations.PeekReadsRingPosition := by
  refine fun off s => ⟨encode_peek_toNat off, fun ha => ?_, fun inv ha ho => ?_, fun inv ha ho => ?_⟩
  · exact whenAllocated_of_not_allocated ha .Q _
  · rw [← inv.levelQ_eq ha] at ho
    exact exec_peek_of_lt ha ho (inv.cell_lt ha (inc_lt (inv.cap_pos ha) _ _))
  · rw [← inv.levelQ_eq ha] at ho
    exact ⟨_, exec_peek_of_le ha ho⟩

/-! ### `CONSUME` -/

/-- `CONSUME` on a buffer removes the clamped count and answers it (42_consumer.md R72). -/
theorem exec_consume_of_allocated {s : State} (ha : s.allocated = true) (n : Idx) :
    exec (.consume n) s = .next
      { s.remove (min n.toNat s.levelQ) with rspQ := BitVec.ofNat 32 (min n.toNat s.levelQ) } := by
  have hfits : min n.toNat s.levelQ < 2 ^ 24 := (Nat.min_le_left ..).trans_lt n.isLt
  rw [exec, execConsume, consumeBytes, whenAllocated, if_pos ha, answer, State.respond_Q_ok hfits]

/-- Settles O22: the count is no more than the operand, so it fits the response. -/
theorem consumeRemovesClamped : Obligations.ConsumeRemovesClamped := by
  refine fun n s => ⟨encode_consume_toNat n, fun ha => ?_, fun inv ha => ?_⟩
  · exact whenAllocated_of_not_allocated ha .Q _
  · rw [← inv.levelQ_eq ha]
    exact exec_consume_of_allocated ha n

end Sys2Proof.Machine
end

section
/-! PROOFS. `PUSH` (43_producer.md R74): what it answers and writes, in the level that port P sees. -/

namespace Sys2Proof.Machine

theorem encode_push_toNat (b : Byte) : (encode (.push b)).map BitVec.toNat = [0x70000000 + b.toNat] := by
  rw [encode, List.map_singleton, commandWord_toNat, BitVec.toNat_setWidth_of_le (by decide)]
  rfl

/-- Port P has no room exactly when its level is one below `CAP` (41_queries.md R65). -/
theorem State.Inv.roomP_eq_zero_iff {s : State} (inv : s.Inv) (ha : s.allocated = true) :
    s.roomP = 0 ↔ s.seenByP = s.cap.toNat - 1 := by
  have := inv.levelP_add_roomP ha
  rw [← inv.levelP_eq ha]
  omega

/-- Settles O24: the byte of a `PUSH` with room is the one `State.append` stores, and the answer changes no more. -/
theorem pushStoresAtHead : Obligations.PushStoresAtHead := by
  refine fun b s => ⟨encode_push_toNat b, fun ha => ?_, fun inv ha hfull => ?_, fun inv ha hroom => ?_⟩
  · exact whenAllocated_of_not_allocated ha .P _
  · exact exec_push_of_no_room ha ((inv.roomP_eq_zero_iff ha).mpr hfull) b
  · have hr : s.roomP ≠ 0 := fun h => hroom.ne ((inv.roomP_eq_zero_iff ha).mp h)
    exact ⟨_, pushByte_of_room inv ha hr b, response_ok (by decide), inv.append_head_toNat ha b,
      s.memRead_append_self b, fun a hne => State.memRead_append_other hne b, rfl⟩

end Sys2Proof.Machine
end

section
/-! PROOFS. An uninterrupted `WRITE` in `SYNC` (43_producer.md R75, 30_encoding.md R60): the `WRITE` loop over the cycles
that no other agent takes part in. -/

namespace Sys2Proof.Machine

/-! ### A cycle of the producer alone -/

/-- Nobody interrupts the producer: no reset, and neither the manager nor the consumer has a word to present. -/
structure State.Alone (s : State) : Prop where
  variant : s.cfg.variant = .sync
  sched : s.sched = []
  manager : s.manager = []
  consumer : s.consumer = []

theorem State.Alone.observeWrite {s : State} (h : s.Alone) : s.observeWrite.Alone :=
  ⟨by simpa using h.variant, by simpa using h.sched, by simpa using h.manager, by simpa using h.consumer⟩

theorem State.Alone.nextMove {s : State} (h : s.Alone) : s.nextMove = .clk false := by
  simp [State.nextMove, State.idleMove, h.sched, h.variant]

/-- The producer sees a response at the start of the cycle, so it may as well have seen it before. -/
theorem State.Alone.step_observeWrite {s : State} (h : s.Alone) : step s.observeWrite = step s :=
  Machine.step_observeWrite (.inl ⟨h.variant, false, h.nextMove⟩)

/-- The cycle is port P's command between two `NOP`s. -/
theorem State.Alone.step_eq {s : State} (h : s.Alone) (hseen : s.observeWrite = s) :
    step s = combine (.ok (.nop .M)) s.producerCommand (.ok (.nop .Q)) s.popProducer := by
  have hsched : s.sched.tail = s.sched := by rw [h.sched]; rfl
  have hmanager : s.manager.tail = s.popProducer.manager := by simp [h.manager]
  have hconsumer : s.consumer.tail = s.popProducer.consumer := by simp [h.consumer]
  have hM : decode .M (s.manager.headD idleWord) = .ok (.nop .M) := by rw [h.manager]; exact decode_zero .M
  have hQ : decode .Q (s.consumer.headD idleWord) = .ok (.nop .Q) := by rw [h.consumer]; exact decode_zero .Q
  have hcycle := syncCycle_queues s s.manager s.consumer
  rw [hseen, hmanager, hconsumer, hM, hQ] at hcycle
  rw [step_of_clk h.variant h.nextMove, State.popMove, hsched]
  exact hcycle

/-- What a cycle of the producer alone leaves, where port P's command makes `u`: the producer and the block as there. -/
structure AloneCycle (s u t : State) : Prop where
  step : step s = .next t
  alone : t.Alone
  producer : t.producer = s.popProducer.producer
  block : SameBlock t u
  rspP : t.rspP = u.rspP
  writer : t.writer = u.writer
  writeResult : t.writeResult = u.writeResult

theorem SameBlock.popProducer (s : State) : SameBlock s.popProducer s := by constructor <;> simp

theorem SameBlock.issueWrite_popProducer (s : State) (data : List Byte) :
    SameBlock (s.popProducer.issueWrite data) s :=
  (SameBlock.issue s.popProducer (.write data)).trans (.popProducer s)

/-- Port P's command writes `HEAD` and storage alone, so a cycle of the producer alone leaves the block as it does. -/
theorem State.Alone.cycle {s u : State} (h : s.Alone) (hseen : s.observeWrite = s)
    (hP : perform false .P s.producerCommand s.popProducer = .next u) : ∃ t, AloneCycle s u t := by
  have hrun : combine (.ok (.nop .M)) s.producerCommand (.ok (.nop .Q)) s.popProducer =
      .next (merge false s.popProducer (s.popProducer.respond .M .ok 0) u (s.popProducer.respond .Q .ok 0)) :=
    cyclePorts_next_iff.mpr ⟨_, u, _, perform_nop .., hP, perform_nop .., rfl⟩
  refine ⟨_, (h.step_eq hseen).trans hrun, ?_, rfl, ?_, rfl, rfl, rfl⟩
  · exact ⟨by simpa [merge] using h.variant, by simpa [merge] using h.sched, by simpa [merge] using h.manager,
      by simpa [merge] using h.consumer⟩
  · obtain ⟨-, -, -, -, ⟨hb, -⟩ | ⟨-, b, -, -, -, -, hb⟩⟩ := perform_P (fun i hi => producerCommand_port hi) hP
    · constructor <;> simp [merge, hb.cfg, hb.allocated, hb.cap, hb.tail, hb.era, hb.tailSeenP, hb.headSeenQ]
    · constructor <;> simp [merge, hb.cfg, hb.allocated, hb.cap, hb.tail, hb.era, hb.tailSeenP, hb.headSeenQ]

/-! ### The phases of a `WRITE` -/

theorem stored_ok_one : stored (response .ok 1) = true := by decide

theorem stored_ok_zero : stored 0x00000000#32 = false := by decide

/-- In the cycle to come the producer, alone, performs a round of `WRITE data`, its last act, with `n` bytes counted. -/
structure State.Writing (s : State) (data : List Byte) (n : Nat) : Prop where
  alone : s.Alone
  seen : s.observeWrite = s
  command : s.producerCommand = .ok (.write data)
  last : s.popProducer.producer = []
  count : (s.writer.map Writer.written).getD 0 = n

/-- The producer, alone, has issued a byte of its last act, with `rest` to come and `n` bytes counted. -/
structure State.Issued (s : State) (rest : List Byte) (n : Nat) : Prop where
  alone : s.Alone
  producer : s.producer = []
  writer : s.writer = some { rest := rest, written := n, awaiting := true }

/-- The producer, alone, has finished its last act, a `WRITE` with result `n`. -/
structure State.Wrote (s : State) (n : Nat) : Prop where
  alone : s.Alone
  producer : s.producer = []
  writer : s.writer = none
  writeResult : s.writeResult = some n

/-- The producer's only act is a `WRITE`. -/
theorem State.Alone.writing {s : State} (h : s.Alone) {data : List Byte} (hp : s.producer = [.write data])
    (hw : s.writer = none) : s.Writing data 0 where
  alone := h
  seen := State.observeWrite_of_not_awaiting (by simp [hw])
  command := by simp [State.producerCommand, hw, hp]
  last := by simp [State.popProducer_of_no_writer hw, hp]
  count := by simp [hw]

section
variable {s : State} {rest : List Byte} {n : Nat} {b : Byte}

/-- `OK 0` ends the `WRITE` with the count so far (30_encoding.md R60). -/
theorem State.Issued.wrote_of_refused (h : s.Issued rest n) (hr : stored s.rspP = false) : s.observeWrite.Wrote n where
  alone := h.alone.observeWrite
  producer := s.observeWrite_producer.trans h.producer
  writer := by rw [State.observeWrite_of_refused h.writer rfl hr]
  writeResult := by rw [State.observeWrite_of_refused h.writer rfl hr]

/-- The last byte stored ends it. -/
theorem State.Issued.wrote_of_stored (h : s.Issued [] n) (hr : stored s.rspP = true) :
    s.observeWrite.Wrote (n + 1) where
  alone := h.alone.observeWrite
  producer := s.observeWrite_producer.trans h.producer
  writer := by rw [State.observeWrite_of_last h.writer rfl hr rfl]
  writeResult := by rw [State.observeWrite_of_last h.writer rfl hr rfl]

/-- A byte stored with more to come is counted. -/
theorem State.Issued.writing_of_stored (h : s.Issued (b :: rest) n) (hr : stored s.rspP = true) :
    s.observeWrite.Writing (b :: rest) (n + 1) := by
  have hseen := State.observeWrite_of_stored h.writer rfl hr (by simp)
  have hwriter := congrArg State.writer hseen
  refine ⟨h.alone.observeWrite, s.observeWrite_observeWrite, ?_, ?_, ?_⟩
  · simp [State.producerCommand, hwriter]
  · rw [State.popProducer_of_writer hwriter, State.observeWrite_producer, h.producer]
  · simp [hwriter]

/-- With the `WRITE` finished nothing happens to the block. -/
theorem State.Wrote.step (h : s.Wrote n) : ∃ t, step s = .next t ∧ t.Wrote n ∧ SameBlock t s := by
  have hseen : s.observeWrite = s := State.observeWrite_of_not_awaiting (by simp [h.writer])
  have hcommand : s.producerCommand = .ok (.nop .P) := by
    rw [State.producerCommand, h.writer, h.producer]
    exact decode_zero .P
  obtain ⟨t, c⟩ := h.alone.cycle hseen (hcommand ▸ perform_nop ..)
  refine ⟨t, c.step, ⟨c.alone, ?_, ?_, ?_⟩, c.block.trans ((SameBlock.respond ..).trans (.popProducer s))⟩
  · simp [c.producer, State.popProducer_of_no_writer h.writer, h.producer]
  · simp [c.writer, h.writer]
  · simp [c.writeResult, h.writeResult]

/-- A `WRITE` of no bytes is `NOP`, and is finished. -/
theorem State.Writing.step_nil (h : s.Writing [] n) : ∃ t, step s = .next t ∧ t.Wrote n ∧ SameBlock t s := by
  obtain ⟨t, c⟩ := h.alone.cycle h.seen (h.command ▸ (perform_write ..).trans (perform_nop ..))
  refine ⟨t, c.step, ⟨c.alone, c.producer.trans h.last, ?_, ?_⟩,
    c.block.trans ((SameBlock.respond ..).trans (.issueWrite_popProducer s []))⟩
  · simp [c.writer, State.issueWrite_nil, State.withLoop]
  · simp [c.writeResult, State.issueWrite_nil, State.withLoop, h.count]

/-- A round is what `PUSH` of its byte does. -/
theorem State.Writing.step_cons {u : State} (h : s.Writing (b :: rest) n)
    (hu : pushByte b (s.popProducer.issueWrite (b :: rest)) = .next u) :
    ∃ t, step s = .next t ∧ t.Issued rest n ∧ SameBlock t u ∧ t.rspP = u.rspP := by
  have hP : perform false .P s.producerCommand s.popProducer = .next u := by
    rw [h.command, perform_write]
    exact hu
  obtain ⟨t, c⟩ := h.alone.cycle h.seen hP
  have hloop := congrArg State.writer (exec_loop (i := .push b) (fun _ h => by cases h) hu)
  refine ⟨t, c.step, ⟨c.alone, c.producer.trans h.last, ?_⟩, c.block, c.rspP⟩
  rw [c.writer, ← hloop, ← h.count, ← s.popProducer_writer]
  rfl

section
variable (h : s.Writing (b :: rest) n) (ha : s.allocated = true)
include h ha

/-- A round with room stores its byte (43_producer.md R74, R75). -/
theorem State.Writing.step_of_room (inv : s.Inv) (hr : s.roomP ≠ 0) :
    ∃ t, step s = .next t ∧ t.Issued rest n ∧ SameBlock t (s.append b) ∧ stored t.rspP = true := by
  have hblock := SameBlock.issueWrite_popProducer s (b :: rest)
  have inv' := inv.of_sameBlock hblock (by simpa using inv.rspM) (by simpa using inv.rspP) (by simpa using inv.rspQ)
  have hpush := pushByte_of_room inv' (hblock.allocated.trans ha) (hblock.roomP ▸ hr) b
  obtain ⟨t, hstep, hissued, ht, hrsp⟩ := h.step_cons hpush
  exact ⟨t, hstep, hissued, ht.trans ((SameBlock.respond ..).trans (hblock.append b)),
    (congrArg stored hrsp).trans stored_ok_one⟩

/-- A round without room has no effect but its answer, which ends the `WRITE`. -/
theorem State.Writing.step_of_no_room (hr : s.roomP = 0) :
    ∃ t, step s = .next t ∧ t.Issued rest n ∧ SameBlock t s ∧ stored t.rspP = false := by
  have hblock := SameBlock.issueWrite_popProducer s (b :: rest)
  have hpush := exec_push_of_no_room (hblock.allocated.trans ha) (hblock.roomP.trans hr) b
  obtain ⟨t, hstep, hissued, ht, hrsp⟩ := h.step_cons hpush
  exact ⟨t, hstep, hissued, ht.trans ((SameBlock.respond _ .P .ok 0).trans hblock),
    (congrArg stored hrsp).trans stored_ok_zero⟩

end

end

/-! ### The whole run -/

/-- After `k` steps the `WRITE` is finished with this result and this queue. -/
def State.Completes (s : State) (k n : Nat) (bytes : List Byte) : Prop :=
  ∃ t : State, Sys2Proof.core.run k s = .next t ∧ t.writeResult = some n ∧ t.writer = none ∧ t.content = bytes

section
variable {s t : State} {k n : Nat} {bytes : List Byte}

/-- A run goes on from the next state of its first step. -/
theorem run_succ_of_next (h : step s = .next t) : Sys2Proof.core.run (k + 1) s = Sys2Proof.core.run k t := by
  change Sys2Proof.core.step s = .next t at h
  simp only [Host.Core.run, h]

/-- A run of one step or more rests on its start only through that step. -/
theorem run_succ_congr (h : step s = step t) : Sys2Proof.core.run (k + 1) s = Sys2Proof.core.run (k + 1) t := by
  change Sys2Proof.core.step s = Sys2Proof.core.step t at h
  simp only [Host.Core.run, h]

theorem State.Completes.of_step (h : step s = .next t) (ht : t.Completes k n bytes) : s.Completes (k + 1) n bytes := by
  obtain ⟨v, hrun, hv⟩ := ht
  exact ⟨v, (run_succ_of_next h).trans hrun, hv⟩

/-- A cycle begins with the producer seeing its last response, so the run may as well start from there. -/
theorem State.Completes.of_observeWrite (h : s.Alone) (ho : s.observeWrite.Completes (k + 1) n bytes) :
    s.Completes (k + 1) n bytes := by
  obtain ⟨v, hrun, hv⟩ := ho
  exact ⟨v, (run_succ_congr h.step_observeWrite.symm).trans hrun, hv⟩

/-- Later cycles leave a finished `WRITE` as it is. -/
theorem State.Wrote.completes (h : s.Wrote n) (k : Nat) : s.Completes k n s.content := by
  induction k generalizing s with
  | zero => exact ⟨s, rfl, h.writeResult, h.writer, rfl⟩
  | succ k ih =>
    obtain ⟨t, hstep, ht, hblock⟩ := h.step
    exact .of_step hstep (hblock.content ▸ ih ht)

end

theorem State.Inv.observeWrite {s : State} (inv : s.Inv) : s.observeWrite.Inv :=
  inv.of_sameBlock (.observeWrite s) (by simpa using inv.rspM) (by simpa using inv.rspP) (by simpa using inv.rspQ)

/-- In `SYNC` port P's room is what the bytes in the queue leave (41_queries.md R65). -/
theorem State.roomP_of_sync {s : State} (hv : s.cfg.variant = .sync) :
    s.roomP = s.cap.toNat - s.content.length - 1 := by
  rw [State.roomP, State.levelP, State.tailViewP_sync hv, State.content_length, State.trueLevel]

section
variable {s : State} (inv : s.Inv) (ha : s.allocated = true)
include inv ha

/-- With room that port P sees, the byte comes last in the queue (10_state.md R27). -/
theorem State.Inv.content_append (hr : s.roomP ≠ 0) (b : Byte) : (s.append b).content = s.content ++ [b] :=
  State.content_append (inv.head_lt ha) (inv.tail_lt ha) (inv.trueLevel_lt_of_room ha hr) b

/-- In `SYNC` a stored byte takes one place of the room. -/
theorem State.Inv.roomP_append (hv : s.cfg.variant = .sync) (hr : s.roomP ≠ 0) (b : Byte) :
    (s.append b).roomP = s.roomP - 1 := by
  rw [State.roomP_of_sync (s := s.append b) hv, State.roomP_of_sync hv, inv.content_append ha hr b, State.append_cap,
    List.length_append, List.length_singleton]
  omega

end

/-- From each round on, the `WRITE` stores what fits of its bytes and adds their number to its count. -/
theorem State.Writing.completes {s : State} {data : List Byte} {n : Nat} (h : s.Writing data n) (inv : s.Inv)
    (ha : s.allocated = true) :
    s.Completes (data.length + 1) (n + min data.length s.roomP) (s.content ++ data.take s.roomP) := by
  induction data generalizing s n with
  | nil =>
    obtain ⟨t, hstep, ht, hblock⟩ := h.step_nil
    simpa [hblock.content] using State.Completes.of_step hstep (ht.completes 0)
  | cons b rest ih =>
    by_cases hr : s.roomP = 0
    · obtain ⟨t, hstep, ht, hblock, hrefused⟩ := h.step_of_no_room ha hr
      have hcontent := ((SameBlock.observeWrite t).trans hblock).content
      simpa [hr, hcontent] using State.Completes.of_step hstep
        (.of_observeWrite ht.alone ((ht.wrote_of_refused hrefused).completes (rest.length + 1)))
    · obtain ⟨t, hstep, ht, hblock, hstored⟩ := h.step_of_room ha inv hr
      have hblock' := (SameBlock.observeWrite t).trans hblock
      have hcontent : t.observeWrite.content = s.content ++ [b] :=
        hblock'.content.trans (inv.content_append ha hr b)
      obtain ⟨room, hroom⟩ := Nat.exists_eq_succ_of_ne_zero hr
      refine .of_step hstep (.of_observeWrite ht.alone ?_)
      cases rest with
      | nil => simpa [hroom, hcontent] using (ht.wrote_of_stored hstored).completes 1
      | cons c rest =>
        have hroom' : t.observeWrite.roomP = room := by
          rw [hblock'.roomP, inv.roomP_append ha h.alone.variant hr, hroom, Nat.succ_sub_one]
        have hrest := ih (ht.writing_of_stored hstored) ((step_facts hstep).inv inv).observeWrite
          (hblock'.allocated.trans ha)
        rw [hroom', hcontent] at hrest
        have hcount : n + min (b :: c :: rest).length s.roomP = n + 1 + min (c :: rest).length room := by
          rw [hroom, List.length_cons]
          omega
        have hbytes : s.content ++ (b :: c :: rest).take s.roomP = s.content ++ [b] ++ (c :: rest).take room := by
          simp [hroom]
        rw [hcount, hbytes]
        exact hrest

/-- Settles O26: the first round finds the whole room. -/
theorem writeRunStoresWhatFits : Obligations.WriteRunStoresWhatFits := by
  intro s data inv hv ha hsched hm hq hp hw room
  have alone : s.Alone := ⟨hv, hsched, hm, hq⟩
  have hroom : s.roomP = room := by rw [State.roomP, inv.levelP_eq ha, Nat.sub_right_comm]
  simpa [hroom, State.Completes] using (alone.writing hp hw).completes inv ha

end Sys2Proof.Machine
end

section
/-! PROOFS. A `SYNC` cycle by the three words presented (44_cycle.md R79 to R85): without management, with it, and with
`PUSH` and `CONSUME` together. -/

namespace Sys2Proof.Machine

/-! ### The commands of the words presented -/

/-- A cycle performs what the ports present, each port on the state with the inputs taken (44_cycle.md R82). -/
theorem State.Presents.step_eq {s : State} {wm wp wq : Word} (h : s.Presents wm wp wq) :
    step s = combine (decode .M wm) (decode .P wp) (decode .Q wq) s.inputsTaken := by
  have hseen : s.popMove.observeWrite = s.popMove := State.observeWrite_of_not_awaiting (by simp [h.writer])
  have hpop : s.popMove.popProducer = { s.popMove with producer := s.producer.tail } :=
    State.popProducer_of_no_writer h.writer
  have hcommand : s.popMove.producerCommand = decode .P wp := by
    rw [State.producerCommand, State.popMove_writer, h.writer, State.popMove_producer]
    cases hp : s.producer with
    | nil =>
      cases hp ▸ h.producer
      rfl
    | cons act acts =>
      cases hp ▸ h.producer
      rfl
  have hcycle := syncCycle_queues s.popMove s.manager s.consumer
  rw [hseen, hpop, hcommand, idleWord, h.manager, h.consumer] at hcycle
  exact (step_of_clk h.variant h.move).trans hcycle

/-- A word leaves nothing with the agent. -/
theorem State.issue_of_decode {x : Port} {w : Word} {i : Instr} (h : decode x w = .ok i) (s : State) :
    s.issue i = s := by
  cases i with
  | write data => exact absurd h (decode_ne_write data)
  | _ => rfl

/-- A word's command leaves the loop of `WRITE` as it is. -/
theorem exec_loop_of_decode {x : Port} {w : Word} {i : Instr} {s t : State} (hd : decode x w = .ok i)
    (h : exec i s = .next t) : t.withLoop s.writer s.writeResult = t :=
  exec_loop (fun data hi => decode_ne_write data (hi ▸ hd)) h

/-! ### Without management -/

/-- A cycle without management takes `HEAD` and storage from port P, `TAIL` and the model fault from port Q. -/
theorem merge_of_commands {s sM sP sQ : State} (hf : sP.faults = s.faults)
    (hl : sP.withLoop s.writer s.writeResult = sP) :
    merge false s sM sP sQ =
      { s with
        head := sP.head, mem := sP.mem, tail := sQ.tail
        rspM := sM.rspM, rspP := sP.rspP, rspQ := sQ.rspQ
        faults := { peekOutOfRange := s.faults.peekOutOfRange || sQ.faults.peekOutOfRange }
        draws := sQ.draws } := by
  have hw : sP.writer = s.writer := (congrArg State.writer hl).symm
  have hr : sP.writeResult = s.writeResult := (congrArg State.writeResult hl).symm
  have hu : s.faults.union (s.faults.union sQ.faults) =
      { peekOutOfRange := s.faults.peekOutOfRange || sQ.faults.peekOutOfRange } := by
    simp [ModelFaults.union]
  rw [merge, hf, hw, hr, hu]
  rfl

/-- Settles O10: `exec` on each port, and what the cycle takes from each. -/
theorem stepRunsDecodedCommands : Obligations.StepRunsDecodedCommands := by
  intro s wm wp wq dm dp dq sM sP sQ hs hdm hdp hdq halloc hfree hM hP hQ
  have hmgmt : isManagement (.ok dm) = false := by
    rw [← Bool.not_eq_true, isManagement_iff]
    rintro ⟨i, hi, hi'⟩
    cases hi
    exact hi'.elim hfree fun ⟨c, hc⟩ => halloc c hc
  obtain ⟨hf, -⟩ := perform_P (mgmt := false) (fun i hi => decode_port (hdp.trans hi)) hP
  rw [hs.step_eq, hdm, hdp, hdq, combine_eq_cyclePorts, hmgmt]
  refine cyclePorts_next_iff.mpr ⟨sM, sP, sQ, hM, hmgmt ▸ hP, hQ, ?_⟩
  rw [hmgmt]
  exact merge_of_commands hf (exec_loop_of_decode hdp hP)

/-! ### With management -/

/-- What port P or Q answers to a word in a cycle with `ALLOC` or `FREE` (44_cycle.md R80). -/
def exclusiveAnswer (x : Port) : Except Illegal Instr → Word
  | .error _ => 0x10000000#32
  | .ok i => if i = .nop x then 0x00000000#32 else 0x50000000#32

/-- In such a cycle a word has no effect but that answer. -/
theorem perform_exclusive (x : Port) (w : Word) (s : State) :
    ∃ st, perform true x (decode x w) s = .next (s.respond x st 0) ∧
      response st 0 = exclusiveAnswer x (decode x w) := by
  cases hd : decode x w with
  | error e => exact ⟨.illegal, rfl, rfl⟩
  | ok i =>
    by_cases hi : i = .nop x
    · exact ⟨.ok, hi ▸ perform_nop true x s, by rw [exclusiveAnswer, if_pos hi]; rfl⟩
    · have hbusy : i.isIdle = false := by
        rw [← Bool.not_eq_true]
        exact fun h => hi (Except.ok.inj (hd.symm.trans (isIdle_decode_iff.mp (by rw [hd]; exact h))))
      refine ⟨.busy, ?_, by rw [exclusiveAnswer, if_neg hi]; rfl⟩
      rw [perform, hbusy, State.issue_of_decode hd]
      rfl

theorem ModelFaults.union_self (f : ModelFaults) : f.union f = f := by simp [ModelFaults.union]

/-- A cycle with management is port M's command and the answers of the other ports. -/
theorem merge_exclusive {s sM : State} {stP stQ : Status} (hf : sM.faults = s.faults) (hd : sM.draws = s.draws)
    (hl : sM.withLoop s.writer s.writeResult = sM) :
    merge true s sM (s.respond .P stP 0) (s.respond .Q stQ 0) =
      { sM with rspP := response stP 0, rspQ := response stQ 0 } := by
  have hu : s.faults.union ((s.respond .P stP 0).faults.union (s.respond .Q stQ 0).faults) = sM.faults := by
    rw [State.respond_faults, State.respond_faults, ModelFaults.union_self, ModelFaults.union_self, hf]
  rw [merge, hu, State.respond_draws, ← hd, ← hl]
  rfl

/-- Settles O11: port M's command, and one answer on each of the other ports. -/
theorem managementCycleIsExclusive : Obligations.ManagementCycleIsExclusive := by
  intro s wm wp wq dm sM hs hdm hmg hM
  have hmgmt : isManagement (.ok dm) = true := isManagement_iff.mpr ⟨dm, rfl, hmg⟩
  obtain ⟨-, hf, hd, -⟩ := perform_M (fun i hi => decode_port (hdm.trans hi)) hM
  obtain ⟨stP, hP, hansP⟩ := perform_exclusive .P wp s.inputsTaken
  obtain ⟨stQ, hQ, hansQ⟩ := perform_exclusive .Q wq s.inputsTaken
  have hrun : step s = .next { sM with rspP := response stP 0, rspQ := response stQ 0 } := by
    rw [hs.step_eq, hdm, combine_eq_cyclePorts, hmgmt]
    refine cyclePorts_next_iff.mpr ⟨sM, _, _, hM, hmgmt ▸ hP, hQ, ?_⟩
    rw [hmgmt]
    exact merge_exclusive hf hd (exec_loop_of_decode hdm hM)
  rw [hrun, hansP, hansQ]
  rfl

/-! ### `PUSH` and `CONSUME` together -/

theorem SameBlock.inputsTaken (s : State) : SameBlock s.inputsTaken s := ⟨rfl, rfl, rfl, rfl, rfl, rfl, rfl, rfl, rfl⟩

theorem State.Inv.inputsTaken {s : State} (inv : s.Inv) : s.inputsTaken.Inv :=
  inv.of_sameBlock (.inputsTaken s) inv.rspM inv.rspP inv.rspQ

/-- The word of `CONSUME n` decodes on port Q to `CONSUME n` (30_encoding.md R49). -/
theorem decode_consume (n : Idx) : decode .Q (commandWord 0x6#4 n) = .ok (.consume n) :=
  List.singleton_inj.mp (decodeOfEncode (.consume n) rfl)

/-- In `SYNC` both ports see the registers themselves (41_queries.md R65). -/
theorem State.levels_of_sync {s : State} (hv : s.cfg.variant = .sync) :
    s.seenByP = ringDistance s.cap.toNat s.head.toNat s.tail.toNat ∧ s.seenByQ = s.seenByP := by
  simp [State.seenByP, State.seenByQ, hv]

/-- Settles O33: each command on the start state, and the queue after both moves. -/
theorem sameCyclePushAndConsume : Obligations.SameCyclePushAndConsume := by
  intro s b n wp wq inv ha hwp hwq hs level
  cases hwp
  cases hwq
  obtain ⟨hlevelP, hlevelQ⟩ := State.levels_of_sync hs.variant
  have hP : s.levelP = level := (inv.levelP_eq ha).trans hlevelP
  have hQ : s.levelQ = level := (inv.levelQ_eq ha).trans (hlevelQ.trans hlevelP)
  have hk : min n.toNat level ≤ s.levelQ := hQ ▸ Nat.min_le_right ..
  have hconsume : exec (.consume n) s.inputsTaken = .next { s.inputsTaken.remove (min n.toNat level) with
      rspQ := BitVec.ofNat 32 (min n.toNat level) } := by
    have := exec_consume_of_allocated (s := s.inputsTaken) ha n
    rwa [(SameBlock.inputsTaken s).levelQ, hQ] at this
  have hrun := fun sP hpush => stepRunsDecodedCommands s _ _ _ _ _ _ _ sP _ hs (decode_zero .M) (decode_push b)
    (decode_consume n) (fun _ h => by cases h) (fun h => by cases h) rfl hpush hconsume
  by_cases hroom : level < s.cap.toNat - 1
  · have hr : s.roomP ≠ 0 := by rw [State.roomP, hP]; omega
    have hpush := pushByte_of_room inv.inputsTaken ha ((SameBlock.inputsTaken s).roomP ▸ hr) b
    refine ⟨_, hrun _ hpush, ?_, rfl, ?_⟩
    · rw [if_pos hroom]
      rfl
    · rw [if_pos hroom, ← inv.content_append_remove ha hr b hk]
      exact State.content_congr rfl rfl rfl rfl rfl
  · have hr : s.roomP = 0 := by rw [State.roomP, hP]; omega
    have hpush := exec_push_of_no_room (s := s.inputsTaken) ha ((SameBlock.inputsTaken s).roomP.trans hr) b
    refine ⟨_, hrun _ hpush, ?_, rfl, ?_⟩
    · rw [if_neg hroom]
    · rw [if_neg hroom, List.append_nil, ← State.content_remove (inv.head_lt ha) (inv.tail_lt ha)
        (hk.trans (inv.views_bound ha).1)]
      exact State.content_congr rfl rfl rfl rfl rfl

end Sys2Proof.Machine
end

section
/-! PROOFS. Commands and `SYNC` cycles complete (44_cycle.md R87). -/

namespace Sys2Proof.Machine

/-! ### Every command -/

/-- A command that needs a buffer completes without one, and with one if it does there. -/
theorem whenAllocated_completes {x : Port} {s : State} {run : Result}
    (h : s.allocated = true → ∃ t, run = .next t) : ∃ t, whenAllocated x s run = .next t := by
  cases ha : s.allocated with
  | true =>
    obtain ⟨t, ht⟩ := h ha
    exact ⟨t, by rw [whenAllocated, if_pos ha, ht]⟩
  | false => exact ⟨_, whenAllocated_of_not_allocated ha x run⟩

theorem consumeBytes_completes (n : Nat) (s : State) : ∃ t, consumeBytes n s = .next t :=
  whenAllocated_completes fun _ => ⟨_, rfl⟩

theorem execAlloc_completes (c : Idx) (s : State) : ∃ t, exec (.alloc c) s = .next t := by
  by_cases h0 : c = 0#24
  · exact ⟨_, h0 ▸ exec_alloc_zero⟩
  by_cases hrefused : s.allocated = true ∨ s.cfg.memDepth < c.toNat
  · exact ⟨_, exec_alloc_oom h0 hrefused⟩
  · rw [not_or, Bool.not_eq_true, Nat.not_lt] at hrefused
    exact ⟨_, exec_alloc_creates h0 hrefused.1 hrefused.2⟩

/-- The cell that `PEEK` reads exists (20_memory.md R34). -/
theorem execPeek_completes {s : State} (inv : s.Inv) (off : Idx) : ∃ t, exec (.peek off) s = .next t := by
  cases ha : s.allocated with
  | false => exact ⟨_, whenAllocated_of_not_allocated ha .Q _⟩
  | true =>
    rcases Nat.lt_or_ge off.toNat s.levelQ with ho | ho
    · exact ⟨_, exec_peek_of_lt ha ho (inv.cell_lt ha (inc_lt (inv.cap_pos ha) _ _))⟩
    · exact ⟨_, exec_peek_of_le ha ho⟩

theorem execWrite_completes {s : State} (inv : s.Inv) (data : List Byte) : ∃ t, exec (.write data) s = .next t := by
  cases data with
  | nil => exact ⟨_, rfl⟩
  | cons b rest =>
    obtain ⟨t, ht⟩ := pushByte_completes inv b
    exact ⟨_, by rw [exec_write_cons, exec, execPush, ht]; rfl⟩

/-- Settles O29: only `PUSH`, `PEEK` and a round of `WRITE` reach a cell, and the invariant says that it exists. -/
theorem commandsAlwaysComplete : Obligations.CommandsAlwaysComplete := by
  intro i s inv
  cases i with
  | nop x => exact ⟨_, rfl⟩
  | alloc c => exact execAlloc_completes c s
  | free => exact whenAllocated_completes fun _ => ⟨_, rfl⟩
  | level x =>
    cases x with
    | M => exact ⟨_, rfl⟩
    | P => exact whenAllocated_completes fun _ => ⟨_, rfl⟩
    | Q => exact whenAllocated_completes fun _ => ⟨_, rfl⟩
  | room x =>
    cases x with
    | M => exact ⟨_, rfl⟩
    | P => exact whenAllocated_completes fun _ => ⟨_, rfl⟩
    | Q => exact whenAllocated_completes fun _ => ⟨_, rfl⟩
  | peek off => exact execPeek_completes inv off
  | consume n => exact consumeBytes_completes n.toNat s
  | push b => exact pushByte_completes inv b
  | write data => exact execWrite_completes inv data
  | drain => exact consumeBytes_completes 0xFFFFFF s

/-! ### Every cycle -/

/-- A port completes whatever it carries. -/
theorem perform_completes {s : State} (inv : s.Inv) (mgmt : Bool) (x : Port) (d : Except Illegal Instr) :
    ∃ t, perform mgmt x d s = .next t := by
  cases d with
  | error e => exact ⟨_, rfl⟩
  | ok i =>
    by_cases hbusy : (mgmt && !i.isIdle) = true
    · exact ⟨_, if_pos hbusy⟩
    · obtain ⟨t, ht⟩ := commandsAlwaysComplete i s inv
      exact ⟨t, (if_neg hbusy).trans ht⟩

theorem combine_completes {s : State} (inv : s.Inv) (dm dp dq : Except Illegal Instr) :
    ∃ t, combine dm dp dq s = .next t := by
  obtain ⟨sM, hM⟩ := perform_completes inv false .M dm
  obtain ⟨sP, hP⟩ := perform_completes inv (isManagement dm) .P dp
  obtain ⟨sQ, hQ⟩ := perform_completes inv (isManagement dm) .Q dq
  exact ⟨_, cyclePorts_next_iff.mpr ⟨sM, sP, sQ, hM, hP, hQ, rfl⟩⟩

/-- What a cycle makes of its state before the commands: the producer has seen its response, the inputs are taken. -/
def State.cycleStart (s : State) : State := s.observeWrite.popProducer.popManager.popConsumer

theorem SameBlock.cycleStart (s : State) : SameBlock s.cycleStart s := by
  constructor <;> simp [State.cycleStart]

theorem State.Inv.cycleStart {s : State} (inv : s.Inv) : s.cycleStart.Inv :=
  inv.of_sameBlock (.cycleStart s) (by simpa [State.cycleStart] using inv.rspM)
    (by simpa [State.cycleStart] using inv.rspP) (by simpa [State.cycleStart] using inv.rspQ)

theorem syncCycle_reset (s : State) :
    syncCycle true s = .next (s.cycleStart.issueCommand s.observeWrite.producerCommand).resetRegisters := rfl

theorem syncCycle_commands (s : State) :
    syncCycle false s = combine s.observeWrite.managerCommand s.observeWrite.producerCommand
      s.observeWrite.consumerCommand s.cycleStart := rfl

theorem State.Inv.popMove {s : State} (inv : s.Inv) : s.popMove.Inv :=
  inv.of_sameBlock (.popMove s) inv.rspM inv.rspP inv.rspQ

/-- Settles O30: a reset performs no command, and without one each port completes. -/
theorem syncCyclesAlwaysComplete : Obligations.SyncCyclesAlwaysComplete := by
  intro s rst inv hv hm
  rw [step_of_clk hv hm]
  cases rst with
  | true => exact ⟨_, syncCycle_reset _⟩
  | false => exact combine_completes inv.popMove.cycleStart _ _ _

end Sys2Proof.Machine
end

section
/-! PROOFS. What a port does in a `SYNC` cycle does not rest on what the others present (44_cycle.md R79): the commands
read neither the agents' queues nor the responses. -/

namespace Sys2Proof.Machine

/-! ### What commands read and write -/

theorem SameBlock.roomQ {a b : State} (h : SameBlock a b) : a.roomQ = b.roomQ := by
  simp [State.roomQ, h.cap, h.levelQ]

theorem SameBlock.cellAt {a b : State} (h : SameBlock a b) (off : Nat) : a.cellAt off = b.cellAt off := by
  simp [State.cellAt, h.cap, h.tail]

/-- Two states that agree in all that commands read and write but the responses. -/
structure SameMachine (a b : State) : Prop where
  block : SameBlock a b
  faults : a.faults = b.faults
  draws : a.draws = b.draws
  writer : a.writer = b.writer
  writeResult : a.writeResult = b.writeResult

section
variable {a b : State} (h : SameMachine a b)
include h

theorem SameMachine.respond (x : Port) (st : Status) (v : Nat) :
    SameMachine (a.respond x st v) (b.respond x st v) where
  block := (SameBlock.respond ..).trans (h.block.trans (SameBlock.respond ..).symm)
  faults := by simp [h.faults]
  draws := by simp [h.draws]
  writer := by simp [h.writer]
  writeResult := by simp [h.writeResult]

theorem SameMachine.append (v : Byte) : SameMachine (a.append v) (b.append v) :=
  ⟨h.block.append v, h.faults, h.draws, h.writer, h.writeResult⟩

theorem SameMachine.remove (k : Nat) : SameMachine (a.remove k) (b.remove k) :=
  ⟨h.block.remove k, h.faults, h.draws, h.writer, h.writeResult⟩

theorem SameMachine.peekFault : SameMachine a.peekFault b.peekFault where
  block := (SameBlock.peekFault a).trans (h.block.trans (SameBlock.peekFault b).symm)
  faults := rfl
  draws := congrArg (· + 1) h.draws
  writer := h.writer
  writeResult := h.writeResult

theorem SameMachine.createBuffer (c : Idx) : SameMachine (a.createBuffer c) (b.createBuffer c) where
  block := h.block.createBuffer c
  faults := by simp [h.faults]
  draws := by simp [h.draws]
  writer := by simp [h.writer]
  writeResult := by simp [h.writeResult]

theorem SameMachine.releaseBuffer : SameMachine a.releaseBuffer b.releaseBuffer where
  block := h.block.releaseBuffer
  faults := by simp [h.faults]
  draws := by simp [h.draws]
  writer := by simp [h.writer]
  writeResult := by simp [h.writeResult]

theorem SameMachine.issueWrite (data : List Byte) : SameMachine (a.issueWrite data) (b.issueWrite data) := by
  have hblock : SameBlock (a.issueWrite data) (b.issueWrite data) :=
    (SameBlock.issue a (.write data)).trans (h.block.trans (SameBlock.issue b (.write data)).symm)
  cases data with
  | nil => exact ⟨hblock, h.faults, h.draws, rfl, by simp [State.issueWrite, h.writer]⟩
  | cons v rest => exact ⟨hblock, h.faults, h.draws, by simp [State.issueWrite, h.writer], h.writeResult⟩

theorem SameMachine.issueCommand (d : Except Illegal Instr) : SameMachine (a.issueCommand d) (b.issueCommand d) := by
  cases d with
  | error e => exact h
  | ok i =>
    cases i with
    | write data => exact h.issueWrite data
    | _ => exact h

theorem SameMachine.observeWrite (hr : a.rspP = b.rspP) : SameMachine a.observeWrite b.observeWrite := by
  have hblock : SameBlock a.observeWrite b.observeWrite :=
    (SameBlock.observeWrite a).trans (h.block.trans (SameBlock.observeWrite b).symm)
  have hloop : a.observeWrite.writer = b.observeWrite.writer ∧
      a.observeWrite.writeResult = b.observeWrite.writeResult := by
    unfold State.observeWrite
    rw [h.writer, hr]
    (repeat' split) <;> simp [h.writer, h.writeResult]
  exact ⟨hblock, by simp [h.faults], by simp [h.draws], hloop.1, hloop.2⟩

end

/-! ### What a command makes of two such states -/

/-- Two outcomes that are the same machine with the same response on port `x`, if both are next states. -/
def Agree (x : Port) (r r' : Result) : Prop :=
  ∀ t t', r = .next t → r' = .next t' → SameMachine t t' ∧ t.rsp x = t'.rsp x

section
variable {a b : State} {x : Port}

theorem agree_answer (h : SameMachine a b) (st : Status) (v : Nat) : Agree x (answer x st v a) (answer x st v b) := by
  rintro t t' ht ht'
  cases ht
  cases ht'
  exact ⟨h.respond x st v, by rw [State.respond_rsp_self, State.respond_rsp_self]⟩

theorem agree_ite {p : Prop} [Decidable p] {r₁ r₁' r₂ r₂' : Result} (h₁ : Agree x r₁ r₁') (h₂ : Agree x r₂ r₂') :
    Agree x (if p then r₁ else r₂) (if p then r₁' else r₂') := by
  split
  · exact h₁
  · exact h₂

theorem agree_whenAllocated (h : SameMachine a b) {r r' : Result} (hr : Agree x r r') :
    Agree x (whenAllocated x a r) (whenAllocated x b r') := by
  rw [whenAllocated, whenAllocated, h.block.allocated]
  exact agree_ite hr (agree_answer h .notAllocated 0)

theorem agree_withCell (h : SameMachine a b) (n : Nat) {r r' : Result} (hr : Agree x r r') :
    Agree x (withCell a n r) (withCell b n r') := by
  rw [withCell, withCell, h.block.cfg]
  exact agree_ite hr fun t t' ht => by cases ht

theorem agree_pushByte (h : SameMachine a b) (v : Byte) : Agree .P (pushByte v a) (pushByte v b) := by
  rw [pushByte, pushByte, h.block.roomP, h.block.head]
  exact agree_whenAllocated h (agree_ite (agree_answer h .ok 0) (agree_withCell h _ (agree_answer (h.append v) .ok 1)))

theorem agree_consumeBytes (h : SameMachine a b) (n : Nat) : Agree .Q (consumeBytes n a) (consumeBytes n b) := by
  rw [consumeBytes, consumeBytes, h.block.levelQ]
  exact agree_whenAllocated h (agree_answer (h.remove _) .ok _)

theorem agree_execAlloc (h : SameMachine a b) (c : Idx) : Agree .M (execAlloc c a) (execAlloc c b) := by
  rw [execAlloc, execAlloc, h.block.allocated, h.block.cfg]
  exact agree_ite (agree_answer h .invalidCapacity 0) (agree_ite (agree_answer h .oom 0)
    (agree_ite (agree_answer h .oom 0) (agree_answer (h.createBuffer c) .ok 0)))

theorem agree_execPeek (h : SameMachine a b) (off : Idx) : Agree .Q (execPeek off a) (execPeek off b) := by
  rw [execPeek, execPeek, h.block.levelQ, h.block.cellAt, h.block.memRead, h.draws]
  exact agree_whenAllocated h
    (agree_ite (agree_withCell h _ (agree_answer h .ok _)) (agree_answer h.peekFault .ok _))

theorem agree_query (h : SameMachine a b) {v v' : Nat} (hv : v = v') :
    Agree x (whenAllocated x a (answer x .ok v a)) (whenAllocated x b (answer x .ok v' b)) :=
  agree_whenAllocated h (hv ▸ agree_answer h .ok v)

theorem agree_execLevel (h : SameMachine a b) (x : Port) : Agree x (execLevel x a) (execLevel x b) := by
  cases x with
  | M => exact agree_answer h .illegal 0
  | P => exact agree_query h h.block.levelP
  | Q => exact agree_query h h.block.levelQ

theorem agree_execRoom (h : SameMachine a b) (x : Port) : Agree x (execRoom x a) (execRoom x b) := by
  cases x with
  | M => exact agree_answer h .illegal 0
  | P => exact agree_query h h.block.roomP
  | Q => exact agree_query h h.block.roomQ

/-- A command makes the same of two states that agree in what commands read. -/
theorem agree_exec (h : SameMachine a b) (i : Instr) : Agree i.port (exec i a) (exec i b) := by
  cases i with
  | nop x => exact agree_answer h .ok 0
  | alloc c => exact agree_execAlloc h c
  | free => exact agree_whenAllocated h (agree_answer h.releaseBuffer .ok 0)
  | level x => exact agree_execLevel h x
  | room x => exact agree_execRoom h x
  | peek off => exact agree_execPeek h off
  | consume n => exact agree_consumeBytes h n.toNat
  | push v => exact agree_pushByte h v
  | write data =>
    cases data with
    | nil => exact agree_answer (h.issueWrite []) .ok 0
    | cons v rest => exact agree_pushByte (h.issueWrite (v :: rest)) v
  | drain => exact agree_consumeBytes h 0xFFFFFF

theorem agree_perform (h : SameMachine a b) (mgmt : Bool) {d : Except Illegal Instr}
    (hx : ∀ i, d = .ok i → i.port = x) : Agree x (perform mgmt x d a) (perform mgmt x d b) := by
  cases d with
  | error e => exact agree_answer h .illegal 0
  | ok i =>
    have hexec := agree_exec h i
    rw [hx i rfl] at hexec
    exact agree_ite (agree_answer (h.issueCommand (.ok i)) .busy 0) hexec

end

/-! ### A cycle -/

theorem State.issueCommand_faults (s : State) (d : Except Illegal Instr) : (s.issueCommand d).faults = s.faults := by
  cases d with
  | error e => rfl
  | ok i => exact s.issue_faults i

/-- Two next states of a cycle agree in what ports M and P do. -/
structure SameForMP (t t' : State) : Prop where
  rspM : t.rspM = t'.rspM
  rspP : t.rspP = t'.rspP
  allocated : t.allocated = t'.allocated
  cap : t.cap = t'.cap
  head : t.head = t'.head
  mem : t.mem = t'.mem
  writer : t.writer = t'.writer
  writeResult : t.writeResult = t'.writeResult

/-- Two next states of a cycle agree in what ports M and Q do. -/
structure SameForMQ (t t' : State) : Prop where
  rspM : t.rspM = t'.rspM
  rspQ : t.rspQ = t'.rspQ
  allocated : t.allocated = t'.allocated
  cap : t.cap = t'.cap
  tail : t.tail = t'.tail
  faults : t.faults = t'.faults

section
variable {a b t t' : State} {dm dp dp' dq dq' : Except Illegal Instr} (h : SameMachine a b)
  (hM : ∀ i, dm = .ok i → i.port = .M) (hP : ∀ i, dp = .ok i → i.port = .P)
include h hM hP

theorem SameMachine.combine_MP (ht : combine dm dp dq a = .next t) (ht' : combine dm dp dq' b = .next t') :
    SameForMP t t' := by
  obtain ⟨sM, sP, sQ, hsM, hsP, -, rfl⟩ := cyclePorts_next_iff.mp ht
  obtain ⟨sM', sP', sQ', hsM', hsP', -, rfl⟩ := cyclePorts_next_iff.mp ht'
  obtain ⟨m, hrspM⟩ := agree_perform h false hM sM sM' hsM hsM'
  obtain ⟨p, hrspP⟩ := agree_perform h _ hP sP sP' hsP hsP'
  cases isManagement dm with
  | true => exact ⟨hrspM, hrspP, m.block.allocated, m.block.cap, m.block.head, m.block.mem, p.writer, p.writeResult⟩
  | false => exact ⟨hrspM, hrspP, h.block.allocated, h.block.cap, p.block.head, p.block.mem, p.writer, p.writeResult⟩

theorem SameMachine.combine_MQ (hP' : ∀ i, dp' = .ok i → i.port = .P) (hQ : ∀ i, dq = .ok i → i.port = .Q)
    (ht : combine dm dp dq a = .next t) (ht' : combine dm dp' dq b = .next t') : SameForMQ t t' := by
  obtain ⟨sM, sP, sQ, hsM, hsP, hsQ, rfl⟩ := cyclePorts_next_iff.mp ht
  obtain ⟨sM', sP', sQ', hsM', hsP', hsQ', rfl⟩ := cyclePorts_next_iff.mp ht'
  obtain ⟨m, hrspM⟩ := agree_perform h false hM sM sM' hsM hsM'
  obtain ⟨q, hrspQ⟩ := agree_perform h _ hQ sQ sQ' hsQ hsQ'
  obtain ⟨hfP, -⟩ := perform_P hP hsP
  obtain ⟨hfP', -⟩ := perform_P hP' hsP'
  have hfaults : a.faults.union (sP.faults.union sQ.faults) = b.faults.union (sP'.faults.union sQ'.faults) := by
    rw [hfP, hfP', h.faults, q.faults]
  cases isManagement dm with
  | true => exact ⟨hrspM, hrspQ, m.block.allocated, m.block.cap, m.block.tail, hfaults⟩
  | false => exact ⟨hrspM, hrspQ, h.block.allocated, h.block.cap, q.block.tail, hfaults⟩

end

/-- The agents' queues are not the machine's. -/
theorem SameMachine.cycleStart {a b : State} (h : SameMachine a.observeWrite b.observeWrite) :
    SameMachine a.cycleStart b.cycleStart := by
  have hblock : SameBlock a.cycleStart b.cycleStart :=
    (SameBlock.cycleStart a).trans ((SameBlock.observeWrite a).symm.trans
      (h.block.trans ((SameBlock.observeWrite b).trans (SameBlock.cycleStart b).symm)))
  exact ⟨hblock, by simpa [State.cycleStart] using h.faults, by simpa [State.cycleStart] using h.draws,
    by simpa [State.cycleStart] using h.writer, by simpa [State.cycleStart] using h.writeResult⟩

section
variable {a b t t' : State} {rst : Bool} (h : SameMachine a b) (hr : a.rspP = b.rspP) (hm : a.manager = b.manager)
include h hr hm

theorem SameMachine.syncCycle_MP (hp : a.producer = b.producer) (ht : syncCycle rst a = .next t)
    (ht' : syncCycle rst b = .next t') : SameForMP t t' := by
  have hseen := h.observeWrite hr
  have hdm : a.observeWrite.managerCommand = b.observeWrite.managerCommand := by simp [State.managerCommand, hm]
  have hdp : a.observeWrite.producerCommand = b.observeWrite.producerCommand := by
    simp only [State.producerCommand, hseen.writer, State.observeWrite_producer, hp]
  cases rst with
  | true =>
    rw [syncCycle_reset] at ht ht'
    cases ht
    cases ht'
    rw [hdp]
    have hissued := hseen.cycleStart.issueCommand b.observeWrite.producerCommand
    exact ⟨rfl, rfl, rfl, rfl, rfl, rfl, hissued.writer, hissued.writeResult⟩
  | false =>
    rw [syncCycle_commands, hdm, hdp] at ht
    exact hseen.cycleStart.combine_MP (fun _ => managerCommand_port) (fun _ => producerCommand_port) ht ht'

theorem SameMachine.syncCycle_MQ (hc : a.consumer = b.consumer) (ht : syncCycle rst a = .next t)
    (ht' : syncCycle rst b = .next t') : SameForMQ t t' := by
  have hseen := h.observeWrite hr
  have hdm : a.observeWrite.managerCommand = b.observeWrite.managerCommand := by simp [State.managerCommand, hm]
  have hdq : a.observeWrite.consumerCommand = b.observeWrite.consumerCommand := by simp [State.consumerCommand, hc]
  cases rst with
  | true =>
    rw [syncCycle_reset] at ht ht'
    cases ht
    cases ht'
    exact ⟨rfl, rfl, rfl, rfl, rfl, (State.issueCommand_faults ..).trans
      (hseen.cycleStart.faults.trans (State.issueCommand_faults ..).symm)⟩
  | false =>
    rw [syncCycle_commands, hdm, hdq] at ht
    exact hseen.cycleStart.combine_MQ (fun _ => managerCommand_port) (fun _ => producerCommand_port)
      (fun _ => producerCommand_port) (fun _ => consumerCommand_port) ht ht'

end

/-- In `SYNC` a step that answers a next state is a cycle, whatever the ports present. -/
theorem step_next_of_sync {s t : State} (hv : s.cfg.variant = .sync) (h : step s = .next t) :
    ∃ rst, s.sched.headD (.clk false) = .clk rst ∧ syncCycle rst s.popMove = .next t := by
  have hmove : s.nextMove = s.sched.headD (.clk false) := by simp [State.nextMove, State.idleMove, hv]
  rw [step, hmove] at h
  unfold runMove at h
  rw [State.popMove_cfg, hv] at h
  cases hm : s.sched.headD (.clk false) with
  | clk rst =>
    rw [hm] at h
    exact ⟨rst, rfl, h⟩
  | _ =>
    rw [hm] at h
    cases h

theorem SameMachine.of_queues (s : State) (ps ps' : List ProducerAct) (cs cs' : List Word) :
    SameMachine { s with producer := ps, consumer := cs } { s with producer := ps', consumer := cs' } :=
  ⟨⟨rfl, rfl, rfl, rfl, rfl, rfl, rfl, rfl, rfl⟩, rfl, rfl, rfl, rfl⟩

/-- Settles O44: two cycles that differ in one agent's queue do the same on the other ports. -/
theorem othersDoNotSeeProducerOrConsumerWords : Obligations.OthersDoNotSeeProducerOrConsumerWords := by
  refine fun s hv => ⟨fun ws ws' t t' h h' => ?_, fun ps ps' t t' h h' => ?_⟩
  · obtain ⟨rst, hm, ht⟩ := step_next_of_sync (s := { s with consumer := ws }) hv h
    obtain ⟨rst', hm', ht'⟩ := step_next_of_sync (s := { s with consumer := ws' }) hv h'
    cases hm.symm.trans hm'
    obtain ⟨hrM, hrP, ha, hc, hh, hmem, hw, hres⟩ :=
      (SameMachine.of_queues s.popMove s.producer s.producer ws ws').syncCycle_MP rfl rfl rfl ht ht'
    exact ⟨hrM, hrP, ha, hc, hh, hmem, hw, hres⟩
  · obtain ⟨rst, hm, ht⟩ := step_next_of_sync (s := { s with producer := ps }) hv h
    obtain ⟨rst', hm', ht'⟩ := step_next_of_sync (s := { s with producer := ps' }) hv h'
    cases hm.symm.trans hm'
    obtain ⟨hrM, hrQ, ha, hc, htail, hf⟩ :=
      (SameMachine.of_queues s.popMove ps ps' s.consumer s.consumer).syncCycle_MQ rfl rfl rfl ht ht'
    exact ⟨hrM, hrQ, ha, hc, htail, hf⟩

end Sys2Proof.Machine
end

section
/-! PROOFS. The cycles of one clock domain in `CDC` by the words presented (45_cdc_variant.md R90, R96, R97): `StepP`,
`StepQ`, and an illegal word in each (60_exceptions.md R103). -/

namespace Sys2Proof.Machine

/-! ### `StepP` as a cycle of two ports -/

/-- `StepP` once the inputs are taken: the commands of ports M and P, with the quiet duty of port M (R90, R97). -/
def producerCycle (dm dp : Except Illegal Instr) (s : State) : Result :=
  if isManagement dm && decide (0 < s.mgmtHold) then .fault .quietBroken
  else andThen (cyclePorts dm dp .next s) fun t => .next (t.startQuiet (isManagement dm))

theorem andThen_assoc (r : Result) (f g : State → Result) :
    andThen (andThen r f) g = andThen r fun s => andThen (f s) g := by cases r <;> rfl

theorem State.managerCommand_observeWrite (s : State) : s.observeWrite.managerCommand = s.managerCommand := by
  simp [State.managerCommand]

theorem stepP_eq (s : State) :
    stepP s = producerCycle s.managerCommand s.observeWrite.producerCommand
      s.observeWrite.popProducer.popManager := by
  simp only [stepP, producerCycle, cyclePorts, andThen_assoc, State.managerCommand_observeWrite]
  rfl

/-- `StepP` as a function of the queues of the manager and the consumer. -/
theorem stepP_queues (s : State) (ms cs : List Word) :
    stepP { s with manager := ms, consumer := cs } =
      producerCycle (decode .M (ms.headD idleWord)) s.observeWrite.producerCommand
        { s.observeWrite.popProducer with manager := ms.tail, consumer := cs } := by
  simp only [stepP_eq, State.observeWrite_queues, State.popProducer_queues]
  rfl

/-- With no `WRITE` in progress the producer presents the next word of its queue, or `NOP` (44_cycle.md R78). -/
theorem State.producerCommand_of_word {s : State} {w : Word} (hw : s.writer = none)
    (hp : s.producer.headD (.word 0x00000000#32) = .word w) : s.producerCommand = decode .P w := by
  rw [State.producerCommand, hw]
  cases hq : s.producer with
  | nil => cases hq ▸ hp; rfl
  | cons act acts => cases hq ▸ hp; rfl

/-- `StepP` when the producer presents a word. -/
theorem stepP_word {s : State} {w : Word} (hw : s.writer = none)
    (hp : s.producer.headD (.word 0x00000000#32) = .word w) :
    stepP s = producerCycle s.managerCommand (decode .P w)
      { s with manager := s.manager.tail, producer := s.producer.tail } := by
  have hseen : s.observeWrite = s := State.observeWrite_of_not_awaiting (by simp [hw])
  rw [stepP_eq, hseen, State.producerCommand_of_word hw hp, State.popProducer_of_no_writer hw]
  rfl

/-! ### The quiet duty of port M -/

/-- The invariant is not about the inputs to come. -/
theorem State.Inv.withInputs {s : State} (inv : s.Inv) (ms cs : List Word) (ps : List ProducerAct)
    (moves : List Move) :
    { s with manager := ms, producer := ps, consumer := cs, sched := moves }.Inv :=
  inv.of_sameBlock ⟨rfl, rfl, rfl, rfl, rfl, rfl, rfl, rfl, rfl⟩ inv.rspM inv.rspP inv.rspQ

section
variable {dm dp : Except Illegal Instr} {s : State}

/-- A cycle that keeps the duty is its commands, and the quiet time that `ALLOC` or `FREE` begins. -/
theorem producerCycle_of_quiet (hq : isManagement dm = false ∨ s.mgmtHold = 0) :
    producerCycle dm dp s =
      andThen (cyclePorts dm dp .next s) fun t => .next (t.startQuiet (isManagement dm)) := by
  refine if_neg ?_
  rcases hq with hq | hq <;> simp [hq]

theorem producerCycle_of_commands {sM sP : State} (hq : isManagement dm = false ∨ s.mgmtHold = 0)
    (hM : perform false .M dm s = .next sM) (hP : perform (isManagement dm) .P dp s = .next sP) :
    producerCycle dm dp s = .next ((merge (isManagement dm) s sM sP s).startQuiet (isManagement dm)) := by
  rw [producerCycle_of_quiet hq, cyclePorts_next_iff.mpr ⟨sM, sP, s, hM, hP, rfl, rfl⟩]
  rfl

/-- `StepP` that keeps the duty completes (44_cycle.md R87). -/
theorem stepP_completes (inv : s.Inv) (hq : isManagement s.managerCommand = false ∨ s.mgmtHold = 0) :
    ∃ t, stepP s = .next t := by
  have inv' : s.observeWrite.popProducer.popManager.Inv :=
    inv.of_sameBlock (by constructor <;> simp) (by simpa using inv.rspM) (by simpa using inv.rspP)
      (by simpa using inv.rspQ)
  obtain ⟨sM, hM⟩ := perform_completes inv' false .M s.managerCommand
  obtain ⟨sP, hP⟩ := perform_completes inv' (isManagement s.managerCommand) .P s.observeWrite.producerCommand
  exact ⟨_, (stepP_eq s).trans (producerCycle_of_commands (by simpa using hq) hM hP)⟩

/-- `ALLOC` or `FREE` inside the quiet time has no move (R97). -/
theorem stepP_of_broken (hm : isManagement s.managerCommand = true) (hold : 0 < s.mgmtHold) :
    stepP s = .fault .quietBroken :=
  (stepP_eq s).trans (if_pos (by simp [hm, hold]))

end

/-! ### `StepQ` and the quiet duty of port Q -/

section
variable {s : State}

theorem stepQ_of_command {d : Except Illegal Instr} {sQ : State} (hd : s.consumerCommand = d)
    (hq : isIdle d = true ∨ s.qHold = 0) (hQ : perform false .Q d s.popConsumer = .next sQ) :
    stepQ s = .next ((merge false s.popConsumer s.popConsumer s.popConsumer sQ).countQuiet (isIdle d)) := by
  rw [stepQ, hd, if_neg (by rcases hq with hq | hq <;> simp [hq]), hQ]
  rfl

/-- `StepQ` that keeps the duty completes (44_cycle.md R87). -/
theorem stepQ_completes (inv : s.Inv) (hq : isIdle s.consumerCommand = true ∨ s.qHold = 0) :
    ∃ t, stepQ s = .next t := by
  have inv' : s.popConsumer.Inv := inv.withInputs ..
  obtain ⟨sQ, hQ⟩ := perform_completes inv' false .Q s.consumerCommand
  exact ⟨_, stepQ_of_command rfl hq hQ⟩

/-- A word other than `NOP` inside the quiet time has no move (R97). -/
theorem stepQ_of_broken (hi : isIdle s.consumerCommand = false) (hold : 0 < s.qHold) :
    stepQ s = .fault .quietBroken :=
  if_pos (by simp [hi, hold])

end

theorem step_of_clkQ {s : State} (hv : s.cfg.variant = .cdc) (hm : s.nextMove = .clkQ) :
    step s = stepQ s.popMove := by
  unfold step runMove
  rw [hm, State.popMove_cfg, hv]

/-! ### The decoded commands -/

theorem isManagement_eq_false {d : Except Illegal Instr} (h : ∀ i, d = .ok i → i ≠ .free ∧ ∀ c, i ≠ .alloc c) :
    isManagement d = false := by
  rw [← Bool.not_eq_true, isManagement_iff]
  rintro ⟨i, hi, hmg⟩
  exact hmg.elim (h i hi).1 fun ⟨c, hc⟩ => (h i hi).2 c hc

/-- No command writes a parameter (10_state.md R31). -/
theorem exec_cfg {i : Instr} {s t : State} (h : exec i s = .next t) : t.cfg = s.cfg := by
  cases exec_effect h <;> simp

/-- `StepP` with management is port M's command and port P's answer (R96). -/
theorem merge_management {s sM : State} {st : Status} (hf : sM.faults = s.faults) (hd : sM.draws = s.draws)
    (hr : sM.rspQ = s.rspQ) (hl : sM.withLoop s.writer s.writeResult = sM) :
    merge true s sM (s.respond .P st 0) s = { sM with rspP := response st 0 } := by
  have hu : s.faults.union ((s.respond .P st 0).faults.union s.faults) = sM.faults := by
    rw [State.respond_faults, ModelFaults.union_self, ModelFaults.union_self, hf]
  rw [merge, hu, ← hd, ← hr, ← hl]
  rfl

/-- Settles O13: `exec` on both ports, and what the cycle takes from each. -/
theorem cdcProducerStepRunsDecoded : Obligations.CdcProducerStepRunsDecoded := by
  intro s wm wp dm dp sM sP hv hm hw hman hprod hdm hdp s0 hM hP
  have hcycle : step s = producerCycle (.ok dm) (decode .P wp) s0 := by
    have hcommand : s.popMove.managerCommand = .ok dm := (congrArg (decode .M) hman).trans hdm
    rw [step_of_clkP hv hm, stepP_word (s := s.popMove) hw hprod, hcommand]
    rfl
  have hrunM : perform false .M (.ok dm) s0 = .next sM := hM
  refine ⟨fun halloc hfree => ?_, fun hmg hhold => ?_⟩
  · have hmgmt : isManagement (.ok dm) = false :=
      isManagement_eq_false fun i hi => Except.ok.inj hi ▸ ⟨hfree, halloc⟩
    have hrunP : perform (isManagement (.ok dm)) .P (.ok dp) s0 = .next sP := by rw [hmgmt]; exact hP
    obtain ⟨hf, -⟩ := perform_P (fun i hi => decode_port (hdp.trans hi)) hrunP
    rw [hcycle, hdp, producerCycle_of_commands (.inl hmgmt) hrunM hrunP, hmgmt,
      merge_of_commands hf (exec_loop_of_decode hdp hP), Bool.or_self]
    rfl
  · have hmgmt : isManagement (.ok dm) = true := isManagement_iff.mpr ⟨dm, rfl, hmg⟩
    obtain ⟨st, hrunP, hanswer⟩ := perform_exclusive .P wp s0
    obtain ⟨-, hf, hd, -⟩ := perform_M (fun i hi => decode_port (hdm.trans hi)) hrunM
    have hrsp : sM.rspQ = s0.rspQ :=
      (commandResponsesAreLegal dm s0 sM hM).2 .Q (by rw [decode_port hdm]; decide)
    have hcfg : sM.cfg = s.cfg := exec_cfg (s := s0) hM
    rw [hcycle, producerCycle_of_commands (s := s0) (.inr hhold) hrunM (by rw [hmgmt]; exact hrunP), hmgmt,
      merge_management hf hd hrsp (exec_loop_of_decode hdm hM), hanswer, hdp, ← hcfg]
    rfl

/-- Settles O14: `exec` on port Q, and what the cycle takes from it. -/
theorem cdcConsumerStepRunsDecoded : Obligations.CdcConsumerStepRunsDecoded := by
  intro s w d sQ hv hm hcon hd hq s0 hQ
  have hcommand : s.popMove.consumerCommand = .ok d := (congrArg (decode .Q) hcon).trans hd
  have hidle : isIdle (.ok d) = true ↔ d = .nop .Q := by
    rw [← hd, isIdle_decode_iff, hd, Except.ok.injEq]
  rw [step_of_clkQ hv hm, stepQ_of_command (s := s.popMove) hcommand (hq.imp_left hidle.mpr) hQ,
    merge_of_commands rfl (State.withLoop_self _), ← if_congr hidle rfl rfl]
  rfl

/-! ### An illegal word and `NOP` in its place -/

theorem producerCycle_illegal_M {e : Illegal} {dp : Except Illegal Instr} {s t : State}
    (h : producerCycle (.error e) dp s = .next t) :
    t.rspM = response .illegal 0 ∧
      producerCycle (.ok (.nop .M)) dp s = .next { t with rspM := response .ok 0 } := by
  rw [producerCycle_of_quiet (.inl rfl)] at h ⊢
  obtain ⟨u, hu, h⟩ := andThen_next h
  obtain ⟨hrsp, hnop⟩ := cyclePorts_illegal_M hu
  cases h
  rw [hnop]
  exact ⟨hrsp, rfl⟩

theorem producerCycle_illegal_P {e : Illegal} {dm : Except Illegal Instr} {s t : State}
    (hq : isManagement dm = false ∨ s.mgmtHold = 0) (h : producerCycle dm (.error e) s = .next t) :
    t.rspP = response .illegal 0 ∧
      producerCycle dm (.ok (.nop .P)) s = .next { t with rspP := response .ok 0 } := by
  rw [producerCycle_of_quiet hq] at h ⊢
  obtain ⟨u, hu, h⟩ := andThen_next h
  obtain ⟨hrsp, hnop⟩ := cyclePorts_illegal_P hu
  cases h
  rw [hnop]
  exact ⟨hrsp, rfl⟩

/-- `StepQ` with an illegal word: what `NOP` would do but for the response and the quiet time of port M (R97). -/
theorem stepQ_illegal {s : State} {w : Word} {ws : List Word} {e : Illegal} (he : decode .Q w = .error e)
    (hq : s.qHold = 0) :
    ∃ t, stepQ { s with consumer := w :: ws } = .next t ∧ t.rspQ = response .illegal 0 ∧
      stepQ { s with consumer := 0x00000000#32 :: ws } =
        .next { t with rspQ := response .ok 0, mgmtHold := s.mgmtHold - 1 } := by
  have hill := stepQ_of_command (s := { s with consumer := w :: ws }) he (.inr hq) (perform_error ..)
  have hnop := stepQ_of_command (s := { s with consumer := 0x00000000#32 :: ws }) (decode_zero .Q) (.inr hq)
    (perform_nop ..)
  exact ⟨_, hill, rfl, hnop⟩

/-- Settles O52: either way the port's command changes its response alone, and on port Q the quiet time of port M. -/
theorem cdcIllegalWordActsAsNop : Obligations.CdcIllegalWordActsAsNop := by
  intro s w inv hv
  refine ⟨fun ws hm hd => ?_, fun ws hm hw hd hq => ?_, fun ws hm hd hq => ?_⟩
  · obtain ⟨e, he⟩ := decode_error_of_illegal hd
    have hcycle := fun v => (step_of_clkP (s := { s with manager := v :: ws }) hv hm).trans
      (stepP_queues s.popMove (v :: ws) s.consumer)
    have hquiet : isManagement (decode .M w) = false := by rw [he]; rfl
    obtain ⟨t, ht⟩ := stepP_completes (s := { s.popMove with manager := w :: ws }) (inv.withInputs ..) (.inl hquiet)
    have hstep := (step_of_clkP (s := { s with manager := w :: ws }) hv hm).trans ht
    refine ⟨t, hstep, ?_⟩
    simp only [hcycle, List.headD_cons, he, decode_zero] at hstep ⊢
    exact producerCycle_illegal_M hstep
  · obtain ⟨e, he⟩ := decode_error_of_illegal hd
    have hcycle := fun v => (step_of_clkP (s := { s with producer := .word v :: ws }) hv hm).trans
      (stepP_word (s := { s.popMove with producer := .word v :: ws }) hw rfl)
    have hquiet : isManagement s.managerCommand = false ∨ s.mgmtHold = 0 := hq.symm.imp_left isManagement_eq_false
    obtain ⟨t, ht⟩ := stepP_completes (s := { s.popMove with producer := .word w :: ws }) (inv.withInputs ..) hquiet
    have hstep := (step_of_clkP (s := { s with producer := .word w :: ws }) hv hm).trans ht
    refine ⟨t, hstep, ?_⟩
    simp only [hcycle, he, decode_zero] at hstep ⊢
    exact producerCycle_illegal_P hquiet hstep
  · obtain ⟨e, he⟩ := decode_error_of_illegal hd
    obtain ⟨t, ht, hrsp, hnop⟩ := stepQ_illegal (s := s.popMove) (ws := ws) he hq
    exact ⟨t, (step_of_clkQ (s := { s with consumer := w :: ws }) hv hm).trans ht, hrsp,
      (step_of_clkQ (s := { s with consumer := 0x00000000#32 :: ws }) hv hm).trans hnop⟩

end Sys2Proof.Machine
end

section
/-! PROOFS. The snapshots of `CDC` (45_cdc_variant.md R90 to R93): their bounds, the steps `SyncT` and `SyncH`, and how
they catch up with the pointers. -/

namespace Sys2Proof.Machine

/-! ### Bounds -/

theorem State.Inv.trueLevel_eq {s : State} (inv : s.Inv) (ha : s.allocated = true) :
    s.trueLevel = ringDistance s.cap.toNat s.head.toNat s.tail.toNat :=
  lvl_eq_ringDistance (inv.head_lt ha) (inv.tail_lt ha)

/-- Settles O45: the two paths of R93 are fields of the invariant, and the levels follow them. -/
theorem cdcViewsAreBounds : Obligations.CdcViewsAreBounds := by
  intro s inv ha hv level
  obtain ⟨-, hhs, hpt, hph⟩ := inv.views ha hv
  obtain ⟨hQ, hP⟩ := inv.views_bound ha
  have hlt := inv.levelP_lt ha
  rw [inv.levelQ_eq ha, inv.trueLevel_eq ha] at hQ
  rw [inv.levelP_eq ha, inv.trueLevel_eq ha] at hP
  rw [inv.levelP_eq ha] at hlt
  exact ⟨State.between_iff.mpr ⟨ha, inv.tail_lt ha, hpt⟩, State.between_iff.mpr ⟨ha, hhs, hph⟩, hQ, hP,
    Nat.le_pred_of_lt hlt, by omega⟩

/-! ### `SyncT` and `SyncH` -/

/-- On a ring of at least one place the model's level is the residue of R14. -/
theorem lvl_cast {c : Nat} (hc : 0 < c) (h t : Nat) : (lvl c h t : Int) = ((h : Int) - t) % c :=
  Int.toNat_of_nonneg (Int.emod_nonneg _ (by omega))

/-- `between` with the residues of R14 (R90); the value is a ring position (R91; log 20). -/
theorem State.between_iff_emod {s : State} {a x b : Idx} :
    s.between a x b = true ↔
      s.allocated = true ∧ x.toNat < s.cap.toNat ∧
        ((x.toNat : Int) - a.toNat) % s.cap.toNat ≤ ((b.toNat : Int) - a.toNat) % s.cap.toNat := by
  rw [State.between_iff]
  refine and_congr_right fun _ => and_congr_right fun hlt => ?_
  have hc : 0 < s.cap.toNat := by omega
  rw [onPath_iff, ← lvl_cast hc, ← lvl_cast hc, Int.ofNat_le]

section
variable {s : State} {v : Idx} (hv : s.cfg.variant = .cdc)
include hv

theorem step_of_syncT (hm : s.nextMove = .syncT v) :
    step s = if s.between s.tailSeenP v s.tail = true then .next { s with sched := s.sched.tail, tailSeenP := v }
      else .fault .snapshotOffPath := by
  unfold step runMove
  rw [hm, State.popMove_cfg, hv]
  rfl

theorem step_of_syncH (hm : s.nextMove = .syncH v) :
    step s = if s.between s.headSeenQ v s.head = true then .next { s with sched := s.sched.tail, headSeenQ := v }
      else .fault .snapshotOffPath := by
  unfold step runMove
  rw [hm, State.popMove_cfg, hv]
  rfl

end

/-- Settles O46: `between` is the test of either step. -/
theorem snapshotsMoveOnlyForward : Obligations.SnapshotsMoveOnlyForward := by
  intro s v hv
  refine ⟨fun hm => ?_, fun hm => ?_⟩
  · rw [step_of_syncT hv hm, ← State.between_iff_emod]
    exact ⟨fun hb => if_pos hb, fun _ hb => if_neg hb⟩
  · rw [step_of_syncH hv hm, ← State.between_iff_emod]
    exact ⟨fun hb => if_pos hb, fun _ hb => if_neg hb⟩

/-! ### Catching up -/

/-- The end of a path lies on it. -/
theorem State.between_end {s : State} (ha : s.allocated = true) {b : Idx} (hb : b.toNat < s.cap.toNat) (a : Idx) :
    s.between a b b = true :=
  State.between_iff.mpr ⟨ha, hb, onPath_iff.mpr le_rfl⟩

/-- Within `k` steps both snapshots reach their pointers, with this queue. -/
def State.CatchesUp (s : State) (k : Nat) (bytes : List Byte) : Prop :=
  ∃ n ≤ k, ∃ t : State, Sys2Proof.core.run n s = .next t ∧
    t.tailSeenP = t.tail ∧ t.headSeenQ = t.head ∧ t.content = bytes

theorem State.CatchesUp.of_step {s t : State} {k : Nat} {bytes : List Byte} (h : step s = .next t)
    (ht : t.CatchesUp k bytes) : s.CatchesUp (k + 1) bytes := by
  obtain ⟨n, hn, u, hrun, hu⟩ := ht
  exact ⟨n + 1, Nat.succ_le_succ hn, u, (run_succ_of_next h).trans hrun, hu⟩

section
variable {s : State} (inv : s.Inv) (hv : s.cfg.variant = .cdc) (ha : s.allocated = true) (hs : s.sched = [])
include inv hv ha hs

/-- After the schedule a snapshot of `TAIL` that is behind catches up first (log 9). -/
theorem State.Inv.step_idle_tail (hne : s.tailSeenP ≠ s.tail) : step s = .next { s with tailSeenP := s.tail } := by
  have hm : s.nextMove = .syncT s.tail := by simp [State.nextMove, State.idleMove, hs, hv, ha, hne]
  rw [step_of_syncT hv hm, if_pos (State.between_end ha (inv.tail_lt ha) _), hs, List.tail_nil, ← hs]

theorem State.Inv.step_idle_head (ht : s.tailSeenP = s.tail) (hne : s.headSeenQ ≠ s.head) :
    step s = .next { s with headSeenQ := s.head } := by
  have hm : s.nextMove = .syncH s.head := by simp [State.nextMove, State.idleMove, hs, hv, ha, ht, hne]
  rw [step_of_syncH hv hm, if_pos (State.between_end ha (inv.head_lt ha) _), hs, List.tail_nil, ← hs]

/-- With the snapshot of `TAIL` up to date one step does for that of `HEAD`. -/
theorem State.Inv.catchesUp_head (ht : s.tailSeenP = s.tail) : s.CatchesUp 1 s.content := by
  by_cases hh : s.headSeenQ = s.head
  · exact ⟨0, Nat.zero_le _, s, rfl, ht, hh, rfl⟩
  · exact .of_step (inv.step_idle_head hv ha hs ht hh)
      ⟨0, le_rfl, _, rfl, ht, rfl, State.content_congr rfl rfl rfl rfl rfl⟩

end

/-- Settles O47: the snapshot of `TAIL` catches up in one step, then that of `HEAD`. -/
theorem snapshotsCatchUp : Obligations.SnapshotsCatchUp := by
  intro s inv hv ha hs
  by_cases ht : s.tailSeenP = s.tail
  · obtain ⟨n, hn, hrun⟩ := inv.catchesUp_head hv ha hs ht
    exact ⟨n, hn.trans one_le_two, hrun⟩
  · have inv' := inv.syncTail hv (State.between_end ha (inv.tail_lt ha) _)
    exact State.CatchesUp.of_step (inv.step_idle_tail hv ha hs ht) (inv'.catchesUp_head hv ha hs rfl)

end Sys2Proof.Machine
end

section
/-! PROOFS. Where there is no move (44_cycle.md R82, 45_cdc_variant.md R90, R97, R98): what a step stops for,
said once (`NoMove`), and that every other step has a next state. -/

namespace Sys2Proof.Machine

/-! ### Quiet times -/

/-- Settles O48: the test of the countdown comes before the commands. -/
theorem brokenQuietTimeHasNoMove : Obligations.BrokenQuietTimeHasNoMove := by
  refine fun s hv => ⟨fun i hm hd hmg hold => ?_, fun hm hd hold => ?_⟩
  · have hmgmt : isManagement s.managerCommand = true := isManagement_iff.mpr ⟨i, hd, hmg⟩
    rw [step_of_clkP hv hm]
    exact stepP_of_broken (s := s.popMove) hmgmt hold
  · have hidle : isIdle s.consumerCommand = false := by
      rw [← Bool.not_eq_true]
      exact fun h => hd (isIdle_decode_iff.mp h)
    rw [step_of_clkQ hv hm]
    exact stepQ_of_broken (s := s.popMove) hidle hold

/-! ### Resets -/

/-- Settles O49: neither reset is a move of `CDC`. -/
theorem oneDomainResetHasNoMove : Obligations.OneDomainResetHasNoMove := by
  intro s hv hm
  unfold step runMove
  rw [State.popMove_cfg, hv]
  rcases hm with hm | hm
  · rw [hm]
  · rw [hm]

/-- The reset of both domains is a move in every state (R98). -/
theorem step_of_rstBoth {s : State} (hv : s.cfg.variant = .cdc) (hm : s.nextMove = .rstBoth) :
    step s = .next s.popMove.observeWrite.resetRegisters := by
  unfold step runMove
  rw [hm, State.popMove_cfg, hv]

/-! ### Steps of the other variant -/

/-- `SYNC` has the cycles of `clk` alone, and `CDC` every other step (R82, R90). -/
theorem step_of_other_variant {s : State} (h : s.cfg.variant = .sync ↔ ¬ ∃ r, s.nextMove = .clk r) :
    step s = .fault .stepOfOtherVariant := by
  unfold step runMove
  rw [State.popMove_cfg]
  cases hv : s.cfg.variant with
  | sync =>
    have hm := h.mp hv
    cases hmove : s.nextMove with
    | clk r => exact absurd ⟨r, hmove⟩ hm
    | _ => rfl
  | cdc =>
    have hm : ¬ ¬ ∃ r, s.nextMove = .clk r := fun hn => by cases (h.mpr hn).symm.trans hv
    obtain ⟨r, hmove⟩ := not_not.mp hm
    rw [hmove]

/-! ### Why a step stops -/

/-- Where the spec has no move, each with the fault that names it (log 10, log 11). -/
inductive NoMove (s : State) : Fault → Prop
  | otherVariant (h : s.cfg.variant = .sync ↔ ¬ ∃ r, s.nextMove = .clk r) : NoMove s .stepOfOtherVariant
  | offPathT (v : Idx) (hv : s.cfg.variant = .cdc) (hm : s.nextMove = .syncT v)
      (hb : s.between s.tailSeenP v s.tail = false) : NoMove s .snapshotOffPath
  | offPathH (v : Idx) (hv : s.cfg.variant = .cdc) (hm : s.nextMove = .syncH v)
      (hb : s.between s.headSeenQ v s.head = false) : NoMove s .snapshotOffPath
  | oneDomain (hv : s.cfg.variant = .cdc) (hm : s.nextMove = .rstP ∨ s.nextMove = .rstQ) : NoMove s .oneDomainReset
  | quietM (hv : s.cfg.variant = .cdc) (hm : s.nextMove = .clkP) (hold : 0 < s.mgmtHold)
      (hd : isManagement s.managerCommand = true) : NoMove s .quietBroken
  | quietQ (hv : s.cfg.variant = .cdc) (hm : s.nextMove = .clkQ) (hold : 0 < s.qHold)
      (hd : isIdle s.consumerCommand = false) : NoMove s .quietBroken

/-- A step has a next state, or stops for want of a move. -/
def State.StepsOrNoMove (s : State) : Prop :=
  (∃ t, step s = .next t) ∨ ∃ f, step s = .fault f ∧ NoMove s f

section
variable {s : State} (hv : s.cfg.variant = .cdc)
include hv

theorem State.stepsOrNoMove_of_syncT {v : Idx} (hm : s.nextMove = .syncT v) : s.StepsOrNoMove := by
  have hstep := step_of_syncT hv hm
  cases hb : s.between s.tailSeenP v s.tail with
  | true => exact .inl ⟨_, hstep.trans (if_pos hb)⟩
  | false => exact .inr ⟨_, hstep.trans (if_neg (by simp [hb])), .offPathT v hv hm hb⟩

theorem State.stepsOrNoMove_of_syncH {v : Idx} (hm : s.nextMove = .syncH v) : s.StepsOrNoMove := by
  have hstep := step_of_syncH hv hm
  cases hb : s.between s.headSeenQ v s.head with
  | true => exact .inl ⟨_, hstep.trans (if_pos hb)⟩
  | false => exact .inr ⟨_, hstep.trans (if_neg (by simp [hb])), .offPathH v hv hm hb⟩

theorem State.Inv.stepsOrNoMove_of_clkP (inv : s.Inv) (hm : s.nextMove = .clkP) : s.StepsOrNoMove := by
  have hstep := step_of_clkP hv hm
  by_cases hbroken : isManagement s.managerCommand = true ∧ 0 < s.mgmtHold
  · obtain ⟨hd, hold⟩ := hbroken
    exact .inr ⟨_, hstep.trans (stepP_of_broken hd hold), .quietM hv hm hold hd⟩
  · rw [not_and_or, Bool.not_eq_true, Nat.not_lt, Nat.le_zero] at hbroken
    obtain ⟨t, ht⟩ := stepP_completes inv.popMove hbroken
    exact .inl ⟨t, hstep.trans ht⟩

theorem State.Inv.stepsOrNoMove_of_clkQ (inv : s.Inv) (hm : s.nextMove = .clkQ) : s.StepsOrNoMove := by
  have hstep := step_of_clkQ hv hm
  by_cases hbroken : isIdle s.consumerCommand = false ∧ 0 < s.qHold
  · obtain ⟨hd, hold⟩ := hbroken
    exact .inr ⟨_, hstep.trans (stepQ_of_broken hd hold), .quietQ hv hm hold hd⟩
  · rw [not_and_or, Bool.not_eq_false, Nat.not_lt, Nat.le_zero] at hbroken
    obtain ⟨t, ht⟩ := stepQ_completes inv.popMove hbroken
    exact .inl ⟨t, hstep.trans ht⟩

end

/-- Every step of a state of the invariant has a next state, or stops for want of a move. -/
theorem State.Inv.stepsOrNoMove {s : State} (inv : s.Inv) : s.StepsOrNoMove := by
  cases hv : s.cfg.variant with
  | sync =>
    by_cases hm : ∃ r, s.nextMove = .clk r
    · obtain ⟨r, hm⟩ := hm
      exact .inl (syncCyclesAlwaysComplete s r inv hv hm)
    · have h : s.cfg.variant = .sync ↔ ¬ ∃ r, s.nextMove = .clk r := iff_of_true hv hm
      exact .inr ⟨_, step_of_other_variant h, .otherVariant h⟩
  | cdc =>
    cases hm : s.nextMove with
    | clk r =>
      have h : s.cfg.variant = .sync ↔ ¬ ∃ r, s.nextMove = .clk r := by simp [hv, hm]
      exact .inr ⟨_, step_of_other_variant h, .otherVariant h⟩
    | clkP => exact inv.stepsOrNoMove_of_clkP hv hm
    | clkQ => exact inv.stepsOrNoMove_of_clkQ hv hm
    | syncT v => exact State.stepsOrNoMove_of_syncT hv hm
    | syncH v => exact State.stepsOrNoMove_of_syncH hv hm
    | rstBoth => exact .inl ⟨_, step_of_rstBoth hv hm⟩
    | rstP => exact .inr ⟨_, oneDomainResetHasNoMove s hv (.inl hm), .oneDomain hv (.inl hm)⟩
    | rstQ => exact .inr ⟨_, oneDomainResetHasNoMove s hv (.inr hm), .oneDomain hv (.inr hm)⟩

theorem State.Inv.noMove_of_fault {s : State} (inv : s.Inv) {f : Fault} (h : step s = .fault f) : NoMove s f := by
  obtain ⟨t, ht⟩ | ⟨g, hg, hno⟩ := inv.stepsOrNoMove
  · cases ht.symm.trans h
  · cases hg.symm.trans h
    exact hno

theorem State.Inv.step_ne_refused {s : State} (inv : s.Inv) (r : Refusal) : step s ≠ .refused r := by
  intro h
  obtain ⟨t, ht⟩ | ⟨g, hg, -⟩ := inv.stepsOrNoMove
  · cases ht.symm.trans h
  · cases hg.symm.trans h

/-- Settles O31: what each fault names, and that none names storage. -/
theorem stepStopsOnlyWithoutMove : Obligations.StepStopsOnlyWithoutMove := by
  refine fun s inv => ⟨inv.step_ne_refused, fun h => ?_, fun h => ?_, fun h => ?_, fun h => ?_, fun h => ?_⟩
  · cases inv.noMove_of_fault h
  · cases inv.noMove_of_fault h with
    | offPathT v hv hm hb => exact ⟨hv, .inl ⟨v, hm, hb⟩⟩
    | offPathH v hv hm hb => exact ⟨hv, .inr ⟨v, hm, hb⟩⟩
  · cases inv.noMove_of_fault h with
    | oneDomain hv hm => exact ⟨hv, hm⟩
  · cases inv.noMove_of_fault h with
    | quietM hv hm hold hd => exact ⟨hv, .inl ⟨hm, hold, isManagement_iff.mp hd⟩⟩
    | quietQ hv hm hold hd =>
      refine ⟨hv, .inr ⟨hm, hold, fun hnop => ?_⟩⟩
      cases hd.symm.trans (isIdle_decode_iff.mpr hnop)
  · cases inv.noMove_of_fault h with
    | otherVariant h => exact h

end Sys2Proof.Machine
end

section
/-! PROOFS. Errors and model faults (60_exceptions.md R100, R104): of the changes a command can make, only the answer
alone carries a status other than `OK`, and only a `PEEK` past the level records a fault. -/

namespace Sys2Proof.Machine

/-! ### A command whose answer is not `OK` -/

theorem State.respond_ok_top (s : State) (x : Port) (v : Nat) : ((s.respond x .ok v).rsp x).top = 0#4 := by
  rw [State.respond_rsp_self, response_top]
  rfl

/-- A command that fails does nothing but answer and what its agent does. -/
theorem Effect.answered_of_not_ok {i : Instr} {s t : State} (e : Effect i s t) (h : (t.rsp i.port).top ≠ 0#4) :
    ∃ st v, t = (s.issue i).respond i.port st v := by
  cases e with
  | answered st v => exact ⟨st, v, rfl⟩
  | created c hi => subst hi; exact absurd (State.respond_ok_top ..) h
  | released hi => subst hi; exact absurd (State.respond_ok_top ..) h
  | peekedOut off hi => subst hi; exact absurd (State.respond_ok_top ..) h
  | consumed k hi => obtain rfl | ⟨n, rfl⟩ := hi <;> exact absurd (State.respond_ok_top ..) h
  | pushed b hi => obtain rfl | ⟨rest, rfl⟩ := hi <;> exact absurd (State.respond_ok_top ..) h

/-- Settles O27: the answer alone is left, and only of a `WRITE` does its agent keep anything. -/
theorem failedCommandHasNoEffect : Obligations.FailedCommandHasNoEffect := by
  intro i s t h hfail
  obtain ⟨st, v, rfl⟩ := (exec_effect h).answered_of_not_ok hfail
  cases i with
  | write data => cases data <;> rfl
  | nop x | level x | room x => cases x <;> rfl
  | _ => rfl

/-! ### The model fault -/

/-- A command that changes the model fault set is a `PEEK` past the level (42_consumer.md R71). -/
theorem Effect.peek_of_faults_ne {i : Instr} {s t : State} (e : Effect i s t) (h : t.faults ≠ s.faults) :
    ∃ off, i = .peek off ∧ s.allocated = true ∧ s.levelQ ≤ off.toNat := by
  cases e with
  | peekedOut off hi hs ho => exact ⟨off, hi, hs, ho⟩
  | answered | created | released | consumed | pushed => simp at h

/-- Settles O38: the fault set only grows in a step, and of the commands only `PEEK` past the level writes it. -/
theorem modelFaultsAreSticky : Obligations.ModelFaultsAreSticky :=
  ⟨fun _ _ h => (step_facts h).faults, fun _ _ _ h => (exec_effect h).peek_of_faults_ne⟩

end Sys2Proof.Machine
end

section
/-! PROOFS. A reset step (70_reset_and_hazards.md R111, R113; 45_cdc_variant.md R98): in either variant it clears the
registers of the state the step began in, of which the agents have changed only what is their own. -/

namespace Sys2Proof.Machine

/-- A reset step: `rst` = 1 in `SYNC`, both resets in `CDC`. -/
def State.ResetNext (s : State) : Prop :=
  (s.cfg.variant = .sync ∧ s.nextMove = .clk true) ∨ (s.cfg.variant = .cdc ∧ s.nextMove = .rstBoth)

/-- A reset step clears the registers, and no command has changed the block or the model fault set. -/
theorem State.ResetNext.step_eq {s : State} (h : s.ResetNext) :
    ∃ u, step s = .next u.resetRegisters ∧ SameBlock u s ∧ u.faults = s.faults := by
  obtain ⟨hv, hm⟩ | ⟨hv, hm⟩ := h
  · exact ⟨_, (step_of_clk hv hm).trans (syncCycle_reset _),
      (SameBlock.issueCommand _ _).trans ((SameBlock.cycleStart _).trans (.popMove s)),
      (State.issueCommand_faults _ _).trans (by simp [State.cycleStart])⟩
  · exact ⟨_, step_of_rstBoth hv hm, (SameBlock.observeWrite _).trans (.popMove s), by simp⟩

/-- The outputs of a block without a buffer and with cleared responses (10_state.md R32, 41_queries.md R68). -/
theorem State.outputs_resetRegisters (s : State) :
    s.resetRegisters.outputs =
      { mRsp := 0#32, pRsp := 0#32, qRsp := 0#32, allocated := false
        pFull := true, pEmpty := true, qFull := true, qEmpty := true } := by
  obtain ⟨hpe, hpf, hqe, hqf⟩ := State.outputs_of_not_allocated s.resetRegisters_allocated
  exact (Outputs.mk.injEq ..).mpr ⟨rfl, rfl, rfl, rfl, hpf, hpe, hqf, hqe⟩

/-- Settles O9: a reset step ends in `State.resetRegisters` of a state with the parameters and the fault set it began
with. -/
theorem resetStepClearsBlock : Obligations.ResetStepClearsBlock := by
  intro s hreset
  obtain ⟨u, hstep, hblock, hfaults⟩ := State.ResetNext.step_eq hreset
  exact ⟨u.resetRegisters, hstep, hblock.cfg, rfl, rfl, rfl, rfl, rfl, rfl, Memory.get_blank, hfaults,
    u.outputs_resetRegisters⟩

end Sys2Proof.Machine
end
